-- ==== Sys2Proof/Word.lean ====
section
/-! DEFINITION. The word types of the core: the widths of 00_scope.md rule R5 and 10_state.md rule R21. -/

namespace Sys2Proof

/-- The 64-bit Block (R22). -/
abbrev Block := BitVec 64

/-- The 80-bit KeyRegister (R23). -/
abbrev Key := BitVec 80

/-- A nibble, "a 4-bit unit (half a byte)" (R10). -/
abbrev Nibble := BitVec 4

/-- A byte of the host's buffers (R50). -/
abbrev Byte := BitVec 8

/-- The 5-bit round counter and the R operand (R24, R73). -/
abbrev Round := BitVec 5

/-- A 16-bit command word (R70). -/
abbrev CmdWord := BitVec 16

end Sys2Proof
end

