-- ==== Sys2Proof/Syntax.lean ====
section
/-! DEFINITION. The commands of the core: one constructor per row of spec/opcode_table.json (R71, R75), with the
operands that the command word carries (T of R72, R of R73). -/

namespace Sys2Proof

/-- The substitution-table selector of R25 and R72: FWD = 0, INV = 1. -/
inductive Table where
  | fwd
  | inv
deriving DecidableEq, Repr

/-- The 12 commands (R71). -/
inductive Instr where
  /-- NOP (R94) -/
  | nop
  /-- LDB: load the Block (R95) -/
  | ldb
  /-- LDK: load the KeyRegister (R96) -/
  | ldk
  /-- ARK: key-mix (R98) -/
  | ark
  /-- SL: substitution layer with the table T (R105) -/
  | sl (t : Table)
  /-- PL: permutation layer (R113) -/
  | pl
  /-- KSF: forward key-schedule step (R122) -/
  | ksf (r : Round)
  /-- KSI: inverse key-schedule step (R123) -/
  | ksi (r : Round)
  /-- RNDE: one forward round (R140) -/
  | rnde (r : Round)
  /-- RNDD: one inverse round (R160) -/
  | rndd (r : Round)
  /-- ENC: encrypt (R141) -/
  | enc
  /-- DEC: decrypt (R161) -/
  | dec
deriving DecidableEq, Repr

end Sys2Proof
end

