-- ==== Sys2Proof/WellFormed.lean ====
section
/-! DEFINITION. The well-formed commands: the operand ranges of R73 and R76. T is a two-valued selector on SL alone and
RSVD is no operand, so the one check left is the range 1..31 of R. -/

namespace Sys2Proof

/-- R is a legal round operand: "it must be in 1..31"; R = 0 is illegal (R73, R76 (d)). A 5-bit R is at most 31. -/
def roundOk (r : Round) : Bool := r != 0

/-- A command the decoder can yield (R76). -/
def Instr.wf : Instr → Bool
  | .nop => true
  | .ldb => true
  | .ldk => true
  | .ark => true
  | .sl _ => true
  | .pl => true
  | .ksf r => roundOk r
  | .ksi r => roundOk r
  | .rnde r => roundOk r
  | .rndd r => roundOk r
  | .enc => true
  | .dec => true

end Sys2Proof
end

