-- ==== Sys2Proof/Decode.lean ====
section
/-! DEFINITION. The decoder of 30_encoding.md R81, total on all 16-bit words and rejecting by name, and after it the
encoder of R82, the opcode map of R75 and the host's view `decodeTableWord`. -/

namespace Sys2Proof

/-- Why a word is illegal: the causes of R76 and R77. The machine keeps none of them, it records one code
(R204; log 17). -/
inductive Illegal where
  /-- RSVD ≠ 0 (R76 (a)) -/
  | reservedField
  /-- OP in 0xC..0xF (R77) -/
  | reservedOpcode
  /-- T = 1 on an opcode other than SL (R76 (b)) -/
  | tableMisplaced
  /-- R = 0 on KSF, KSI, RNDE or RNDD (R76 (d)) -/
  | roundZero
  /-- R ≠ 0 on an opcode that takes no R (R76 (c)) -/
  | roundMisplaced
deriving DecidableEq, Repr

/-- OP, w[3:0] (R70). -/
def opField (w : CmdWord) : BitVec 4 := w.extractLsb' 0 4

/-- T, w[4] (R70). -/
def tField (w : CmdWord) : BitVec 1 := w.extractLsb' 4 1

/-- R, w[9:5] (R70). -/
def rField (w : CmdWord) : Round := w.extractLsb' 5 5

/-- RSVD, w[15:10] (R70). -/
def rsvdField (w : CmdWord) : BitVec 6 := w.extractLsb' 10 6

/-- The selector a T bit stands for: FWD = 0, INV = 1 (R72). -/
def tableOfBit (t : BitVec 1) : Table := if t = 0 then .fwd else .inv

/-- OP ∈ {KSF, KSI, RNDE, RNDD}: the opcodes that take R (R81 `usesR`). -/
def usesRound (op : BitVec 4) : Bool := op == 6 || op == 7 || op == 8 || op == 9

/-- The command an opcode and its operand fields name (R71); none for the reserved opcodes 0xC..0xF. -/
def commandOf (op : BitVec 4) (t : BitVec 1) (r : Round) : Option Instr :=
  match op.toNat with
  | 0 => some .nop
  | 1 => some .ldb
  | 2 => some .ldk
  | 3 => some .ark
  | 4 => some (.sl (tableOfBit t))
  | 5 => some .pl
  | 6 => some (.ksf r)
  | 7 => some (.ksi r)
  | 8 => some (.rnde r)
  | 9 => some (.rndd r)
  | 10 => some .enc
  | 11 => some .dec
  | _ => none

/-- R81, check by check in its order. -/
def decode (w : CmdWord) : Except Illegal Instr :=
  if rsvdField w ≠ 0 then .error .reservedField
  else if 12 ≤ (opField w).toNat then .error .reservedOpcode
  else if tField w = 1 ∧ opField w ≠ 4 then .error .tableMisplaced
  else if usesRound (opField w) = true ∧ rField w = 0 then .error .roundZero
  else if usesRound (opField w) = false ∧ rField w ≠ 0 then .error .roundMisplaced
  else
    match commandOf (opField w) (tField w) (rField w) with
    | some i => .ok i
    | none => .error .reservedOpcode

/-- OP of a command (R71). -/
def Instr.op : Instr → BitVec 4
  | .nop => 0x0
  | .ldb => 0x1
  | .ldk => 0x2
  | .ark => 0x3
  | .sl _ => 0x4
  | .pl => 0x5
  | .ksf _ => 0x6
  | .ksi _ => 0x7
  | .rnde _ => 0x8
  | .rndd _ => 0x9
  | .enc => 0xA
  | .dec => 0xB

/-- The selector's bit: FWD = 0, INV = 1 (R72). -/
def Table.bit : Table → BitVec 1
  | .fwd => 0
  | .inv => 1

/-- T of a command: the selector of SL, 0 on every other command (R76 (b)). -/
def Instr.tBit : Instr → BitVec 1
  | .nop => 0
  | .ldb => 0
  | .ldk => 0
  | .ark => 0
  | .sl t => t.bit
  | .pl => 0
  | .ksf _ => 0
  | .ksi _ => 0
  | .rnde _ => 0
  | .rndd _ => 0
  | .enc => 0
  | .dec => 0

/-- R of a command: its round operand, 0 on a command that takes none (R76 (c)). -/
def Instr.round : Instr → Round
  | .nop => 0
  | .ldb => 0
  | .ldk => 0
  | .ark => 0
  | .sl _ => 0
  | .pl => 0
  | .ksf r => r
  | .ksi r => r
  | .rnde r => r
  | .rndd r => r
  | .enc => 0
  | .dec => 0

/-- R82: `zext_16(OP) | (zext_16(T) << 4) | (zext_16(R) << 5)`, RSVD = 0. -/
def encode (i : Instr) : CmdWord :=
  i.op.zeroExtend 16 ||| (i.tBit.zeroExtend 16 <<< 4) ||| (i.round.zeroExtend 16 <<< 5)

/-- A row of the opcode map of R75: word `w` selects it when `(w & mask) == pattern`. -/
structure OpcodeRow where
  pattern : CmdWord
  mask : CmdWord
deriving DecidableEq, Repr

/-- The opcode map of R75, in its order (`pattern` is the column `match`). -/
def opcodeMap : List OpcodeRow :=
  [⟨0x0000, 0xFFFF⟩, ⟨0x0001, 0xFFFF⟩, ⟨0x0002, 0xFFFF⟩, ⟨0x0003, 0xFFFF⟩, ⟨0x0004, 0xFFEF⟩, ⟨0x0005, 0xFFFF⟩] ++
  [⟨0x0006, 0xFC1F⟩, ⟨0x0007, 0xFC1F⟩, ⟨0x0008, 0xFC1F⟩, ⟨0x0009, 0xFC1F⟩, ⟨0x000A, 0xFFFF⟩, ⟨0x000B, 0xFFFF⟩]

/-- `w` selects the row (R75). -/
def OpcodeRow.selects (row : OpcodeRow) (w : CmdWord) : Bool := w &&& row.mask == row.pattern

/-- The row of a command: row OP of the map. -/
def Instr.row (i : Instr) : OpcodeRow := opcodeMap.getD i.op.toNat ⟨0x0000, 0xFFFF⟩

/-- The round operands 1..31, counting up (R73). -/
def roundsUp : List Round := (List.range 31).map fun n => BitVec.ofNat 5 (n + 1)

/-- Every command of the opcode map with every operand it admits (R75, column "legal words"). -/
def legalInstrs : List Instr :=
  [.nop, .ldb, .ldk, .ark, .sl .fwd, .sl .inv, .pl, .enc, .dec] ++
    roundsUp.map .ksf ++ roundsUp.map .ksi ++ roundsUp.map .rnde ++ roundsUp.map .rndd

/-- The host's numbering: one 16-bit word, bit 0 the least significant bit (R7, R70). A value that does not fit the
`nbits` bits it is said to have, or the 16 bits of the command port, is no command (log 18). -/
def decodeTableWord (nbits w : Nat) : Option Instr :=
  if w < 2 ^ nbits ∧ w < 2 ^ 16 then
    match decode (BitVec.ofNat 16 w) with
    | .ok i => some i
    | .error _ => none
  else none

end Sys2Proof
end

