-- ==== Sys2Proof/Config.lean ====
section
/-! DEFINITION. What an implementation of the core fixes (the shape of its two S-box ROMs, `CYCLES`) and the free
values that the spec leaves open. The default tables' contents, and what is computed from a table, stand in
Machine/Tables.lean. -/

namespace Sys2Proof

/-- The two constant substitution ROMs, 16 entries of 4 bits each (R29, R100, R101): entry `x` of `fwd` is SBOX[x],
entry `y` of `inv` is SBOX_INV[y]. They are the named parameters of R6. -/
structure Tables where
  fwd : Vector Nibble 16
  inv : Vector Nibble 16
deriving DecidableEq, Repr

namespace Config

/-- FREE VALUE (log 5). What the flip-flops of a BLK that holds no value show on `dout_blk`: "any value for a host
read of dout_*" (93_implementation_defined.md §1). The argument is the state's `freeCount`. -/
opaque flopBlk : Nat → Block

/-- FREE VALUE (log 5). The same for KEY on `dout_key`. -/
opaque flopKey : Nat → Key

/-- CYCLES, clock cycles per micro-step: an open parameter that no rule reads (R6, R239; log 15). -/
opaque cycles : Nat

end Config
end Sys2Proof
end

