-- ==== Sys2Proof/Machine/Tables.lean ====
section
/-! DEFINITION. The substitution ROMs' default contents, their lookup and the table laws (41_substitution.md §1). -/

namespace Sys2Proof.Machine

/-- R100: the default SBOX, marked there as general knowledge (D16; log 7). -/
def defaultSbox : Vector Nibble 16 :=
  #v[0xC, 0x5, 0x6, 0xB, 0x9, 0x0, 0xA, 0xD, 0x3, 0xE, 0xF, 0x8, 0x4, 0x7, 0x1, 0x2]

/-- R101: the default SBOX_INV, an independently listed table. -/
def defaultSboxInv : Vector Nibble 16 :=
  #v[0x5, 0xE, 0xF, 0x8, 0xC, 0x1, 0x2, 0xD, 0xB, 0x4, 0x6, 0x3, 0x0, 0x7, 0x9, 0xA]

/-- The default configuration of D16. -/
def defaultTables : Tables := { fwd := defaultSbox, inv := defaultSboxInv }

/-- A ROM read at a 4-bit nibble value (R9, R29). -/
def lookup (rom : Vector Nibble 16) (x : Nibble) : Nibble := rom[x.toNat]'(x.isLt)

/-- The table a selector names: `(TSEL == FWD) ? SBOX : SBOX_INV` (R104). -/
def selectTable (tables : Tables) (t : Table) : Vector Nibble 16 :=
  match t with
  | .fwd => tables.fwd
  | .inv => tables.inv

/-- The nibbles 0..15. -/
def allNibbles : List Nibble := (List.range 16).map fun n => BitVec.ofNat 4 n

/-- R102: the two tables are mutual inverses at every nibble. (That each is a permutation of 0..15 follows.) -/
def lawfulTables (tables : Tables) : Bool :=
  allNibbles.all fun v =>
    lookup tables.inv (lookup tables.fwd v) == v && lookup tables.fwd (lookup tables.inv v) == v

end Sys2Proof.Machine
end

