-- ==== Sys2Proof/Machine/State.lean ====
section
/-! DEFINITION. The state of the machine as plain data: the core's state of 10_state.md R21, its ports (R30), its ROMs
(R29), the model fault of R208, and the schedule that interleaves the core with the host (R20). -/

namespace Sys2Proof.Machine

/-- The reasons of `raise ModelFault(reason)` (R9, R208): plain state of the machine, not an outcome of a step. -/
inductive ModelFault where
  /-- a micro-op read BLK or KEY while that register was absent (R31, R208) -/
  | unloadedRead
deriving DecidableEq, Repr

/-- Why the machine stops. -/
inductive Fault where
  /-- The sequencer stands where no rule gives a micro-step (SUB past its range, a latched word with no micro-ops, RC
  outside 1..31 in a round). Raised by `coreStep`. Safe: no run from reset reaches such a state (log 11). -/
  | noMicroOp
deriving DecidableEq, Repr

/-- Why the machine gives no meaning. -/
inductive Refusal where
  /-- An instruction that has no meaning yet. Raised by no arm of this model. Safe. -/
  | notModelled (mnemonic : String)
  /-- The configured tables break R102: "refused by the model: it is not a configuration of this hardware". Raised by
  `takeTurn`. Safe. -/
  | unlawfulTables
deriving DecidableEq, Repr

/-- A register that is absent until something writes it (R31). `value` of an absent register is the value the model
names at reset and nothing of the machine reads it (log 3). -/
structure Reg (w : Nat) where
  value : BitVec w
  present : Bool
deriving DecidableEq, Repr

/-- PHASE, the sequencer's state (R26). -/
inductive Phase where
  | idle
  | prim
  | eRnd
  | eFin
  | dFf
  | dRnd
  | dFin
deriving DecidableEq, Repr

/-- The error codes the core produces (R201); code 3 is reserved and no state of this hardware (log 13). -/
inductive Err where
  | ok
  | illegal
  | busy
deriving DecidableEq, Repr

/-- Whose turn it is, and what a host turn does (R20, R30): one step of one agent. -/
inductive Turn where
  /-- the core may take one micro-step (R37) -/
  | core
  /-- the host drives `cmd` -/
  | driveCmd (w : CmdWord)
  /-- the host drives `din_blk` -/
  | driveBlk (b : Block)
  /-- the host drives `din_key` -/
  | driveKey (k : Key)
  /-- an issue event: the host presents `cmd` with `cmd_valid` = 1 (R30, R34) -/
  | issue
  /-- the host asserts `rst` (R230) -/
  | assertRst
  /-- the host asserts `rst` and issues a command at the same instant (R232) -/
  | assertRstAndIssue
  /-- the host releases `rst` -/
  | releaseRst
  /-- the host reads the output ports (R42, R57) -/
  | readOutputs
deriving DecidableEq, Repr

/-- The machine's state. -/
structure State where
  /-- BLK (R22) -/
  blk : Reg 64
  /-- KEY (R23) -/
  key : Reg 80
  /-- RC (R24) -/
  rc : Reg 5
  /-- TSEL (R25) -/
  tsel : Table
  /-- PHASE (R26) -/
  phase : Phase
  /-- SUB (R26) -/
  sub : BitVec 3
  /-- CMDL (R27) -/
  cmdl : Reg 16
  /-- status[0] (R28) -/
  busy : Bool
  /-- status[1] (R28) -/
  done : Bool
  /-- status[3:2] (R28, R201) -/
  err : Err
  /-- the model fault the core stands in, until reset (R208) -/
  mfault : Option ModelFault
  /-- port rst (R30), held by the host -/
  rst : Bool
  /-- port cmd (R30) -/
  cmd : CmdWord
  /-- port din_blk (R30) -/
  dinBlk : Block
  /-- port din_key (R30) -/
  dinKey : Key
  /-- the ROMs SBOX and SBOX_INV (R29): configuration, never written -/
  rom : Tables
  /-- the MODEL's own: the turns of the two agents still to come (log 1) -/
  schedule : List Turn
  /-- the MODEL's own: which free value an absent BLK or KEY shows (log 5) -/
  freeCount : Nat
deriving DecidableEq, Repr

/-- A register that holds no value (R31), with the value the model names for it (log 3). -/
def Reg.absent (w : Nat) : Reg w := { value := 0, present := false }

/-- A register that has been written (R31: "A register becomes present when written"). -/
def Reg.loaded {w : Nat} (v : BitVec w) : Reg w := { value := v, present := true }

/-- What a reader of the register finds: nothing while it is absent (R31). -/
def Reg.get? {w : Nat} (r : Reg w) : Option (BitVec w) := if r.present then some r.value else none

/-- The machine right after reset (R33, R230), with the default tables (D16), idle ports and no turn listed
(logs 3, 5, 6, 7). -/
def State.reset : State :=
  { blk := Reg.absent 64
    key := Reg.absent 80
    rc := Reg.absent 5
    tsel := .fwd
    phase := .idle
    sub := 0
    cmdl := Reg.absent 16
    busy := false
    done := false
    err := .ok
    mfault := none
    rst := false
    cmd := 0
    dinBlk := 0
    dinKey := 0
    rom := defaultTables
    schedule := []
    freeCount := 0 }

end Sys2Proof.Machine
end

