-- ==== Sys2Proof/Machine/Flags.lean ====
section
/-! DEFINITION. The status word (10_state.md R28): its layout, and the ways its fields are written. No data operation
writes a flag (R32); busy, done and err depend on the command protocol alone. -/

namespace Sys2Proof.Machine

/-- The code of `err` in status[3:2] (R201). -/
def Err.code : Err → BitVec 2
  | .ok => 0
  | .illegal => 1
  | .busy => 2

/-- The output port `status`: bit 0 busy, bit 1 done, bits 3:2 err (R28). -/
def State.status (s : State) : BitVec 4 := s.err.code ++ (BitVec.ofBool s.done ++ BitVec.ofBool s.busy)

/-- What an accepted issue does to the status first: `err <- 0; done <- 0` (R34). Only this clears `err` (R206). -/
def State.clearStatus (s : State) : State := { s with err := .ok, done := false }

/-- `done <- 1` at acceptance: a command with no micro-step (R35). -/
def State.finishAtOnce (s : State) : State := { s with done := true }

/-- `complete()`: `PHASE <- IDLE; busy <- 0; done <- 1`; err is not touched (R38). -/
def State.complete (s : State) : State := { s with phase := .idle, busy := false, done := true }

end Sys2Proof.Machine
end

