-- ==== Sys2Proof/Machine/Operands.lean ====
section
/-! DEFINITION. Operands: bit and byte views of Block and KeyRegister (20_memory.md §2, §3), the round key, and the
ports (10_state.md R30): what an issue samples and what the outputs show. -/

namespace Sys2Proof.Machine

/-- `get_bit(v, n)` = v[n] (R54). -/
def getBit {w : Nat} (v : BitVec w) (n : Nat) : Bool := v.getLsbD n

/-- `set_bit(v, n)` sets v[n] to 1 and leaves every other bit unchanged (R54). -/
def setBit {w : Nat} (v : BitVec w) (n : Nat) : BitVec w := v ||| (1#w <<< n)

/-- `xor_with(a, b)` on the value view (R55). -/
def xorWith {w : Nat} (a b : BitVec w) : BitVec w := a ^^^ b

/-- Block buffer byte j, 0 ≤ j ≤ 7: `BLK[63-8j : 56-8j]` (R51). -/
def blockByte (b : Block) (j : Fin 8) : Byte := b.extractLsb' (56 - 8 * j.val) 8

/-- Key buffer byte j, 0 ≤ j ≤ 9: `KEY[79-8j : 72-8j]` (R52). -/
def keyByte (k : Key) (j : Fin 10) : Byte := k.extractLsb' (72 - 8 * j.val) 8

/-- The value a byte buffer stands for in big-endian order: byte 0 is the most significant (R51, R53). -/
def bigEndian (w : Nat) (bytes : List Byte) : BitVec w :=
  bytes.foldl (fun acc b => (acc <<< 8) ||| b.zeroExtend w) 0

/-- The `din_blk` value that carries the caller's 8-byte buffer (R53). -/
def blockOfBytes (bytes : Vector Byte 8) : Block := bigEndian 64 bytes.toList

/-- The `din_key` value that carries the caller's 10-byte buffer (R53). -/
def keyOfBytes (bytes : Vector Byte 10) : Key := bigEndian 80 bytes.toList

/-- RK = KEY[79:16], "the first 8 bytes of the 10-byte register" (R23, R52). -/
def roundKey (k : Key) : Block := k.extractLsb' 16 64

/-- `Sample(din_blk)` (R9). -/
def State.sampleBlk (s : State) : Block := s.dinBlk

/-- `Sample(din_key)` (R9). -/
def State.sampleKey (s : State) : Key := s.dinKey

/-- `Sample(cmd)` (R9, R34). -/
def State.sampleCmd (s : State) : CmdWord := s.cmd

/-- The output port `dout_blk`: always BLK (R42); a free value while BLK is absent (93_implementation_defined.md §1). -/
def State.doutBlk (s : State) : Block := if s.blk.present then s.blk.value else Config.flopBlk s.freeCount

/-- The output port `dout_key`: always KEY (R42); a free value while KEY is absent. -/
def State.doutKey (s : State) : Key := if s.key.present then s.key.value else Config.flopKey s.freeCount

end Sys2Proof.Machine
end

