-- ==== Sys2Proof/Machine/Ops.lean ====
section
/-! DEFINITION. The named operations over State that the commands share: raising an error (this hardware's whole
exception entry, R200), the issue check, starting a micro-op list, model faults and reset. -/

namespace Sys2Proof.Machine

/-- `raise Err(code)`: the command is dropped and its code recorded; ILLEGAL also sets done; nothing else changes
(R200 to R205). This hardware has no other exception entry: no state is saved and no handler is entered. -/
def State.raiseErr (s : State) (e : Err) : State :=
  match e with
  | .illegal => { s with err := .illegal, done := true }
  | .busy => { s with err := .busy }
  | .ok => s

/-- The issue check of R34 for a legal command: BUSY while a command runs, else the status is cleared (the counterpart
of a trap return, R206) and the acceptance action is performed at once. -/
def issueCheck (s : State) (accept : State → State) : Host.Outcome State Fault Refusal :=
  if s.busy then .next (s.raiseErr .busy) else .next (accept s.clearStatus)

/-- The issue check of R34 for an illegal word: BUSY wins over ILLEGAL (R202, R204). -/
def issueIllegal (s : State) : Host.Outcome State Fault Refusal :=
  if s.busy then .next (s.raiseErr .busy) else .next (s.raiseErr .illegal)

/-- The issue check of a command that takes R: R = 0 is illegal (R76 (d), R77; log 9). -/
def issueRound (r : Round) (s : State) (accept : State → State) : Host.Outcome State Fault Refusal :=
  if roundOk r then issueCheck s accept else issueIllegal s

/-- `CMDL <- c; PHASE <- PRIM; SUB <- 0; busy <- 1` (R35): a primitive command starts (log 10). -/
def State.startPrim (s : State) (c : Instr) : State :=
  { s with cmdl := Reg.loaded (encode c), phase := .prim, sub := 0, busy := true }

/-- `TSEL <- t` (R25, R35). -/
def State.setTsel (s : State) (t : Table) : State := { s with tsel := t }

/-- `BLK <- Sample(din_blk)` (R35). -/
def State.loadBlk (s : State) : State := { s with blk := Reg.loaded s.sampleBlk }

/-- `KEY <- Sample(din_key)` (R35). -/
def State.loadKey (s : State) : State := { s with key := Reg.loaded s.sampleKey }

/-- `PHASE <- p; RC <- 1; SUB <- 0; busy <- 1` (R35): the ENC or DEC sequencer starts. -/
def State.startSequencer (s : State) (p : Phase) : State :=
  { s with phase := p, rc := Reg.loaded 1, sub := 0, busy := true }

/-- `raise ModelFault(UnloadedRead)`: the core stands in the fault until reset and nothing else of it changes
(R37, R208; logs 4, 5). -/
def State.raiseModelFault (s : State) : State :=
  { s with mfault := some .unloadedRead, freeCount := s.freeCount + 1 }

/-- The reset event (R230): the core's state of R33 at once, and `rst` is high. The input ports and the turns to come
are the host's and stay; the ROMs are constant (R33; log 20). -/
def State.resetEvent (s : State) : State :=
  { State.reset with
    rst := true
    cmd := s.cmd
    dinBlk := s.dinBlk
    dinKey := s.dinKey
    rom := s.rom
    schedule := s.schedule
    freeCount := s.freeCount + 1 }

end Sys2Proof.Machine
end

