-- ==== Sys2Proof/Machine/KeySchedule.lean ====
section
/-! DEFINITION. 43_key_schedule.md: the key-schedule steps µKSF(r) and µKSI(r), KSF and KSI, and the key sequence of
R125. -/

namespace Sys2Proof.Machine

/-- `rotl_80(v, n)`: bit i moves to bit (i + n) mod 80 (R8, D17). -/
def rotl80 (k : Key) (n : Nat) : Key := k.rotateLeft n

/-- The byte XORed in: `(zext_8(r) << 2)[7:0]` (R120). -/
def roundByte (r : Round) : Byte := r.zeroExtend 8 <<< 2

/-- `k[39:32] <- k[39:32] ^ (zext_8(r) << 2)`: the XOR into key byte index 5 (R120 step 1, R121 step 3). -/
def xorByte5 (r : Round) (k : Key) : Key := k ^^^ ((roundByte r).zeroExtend 80 <<< 32)

/-- `k[79:76] <- τ[k[79:76]]`, the other bits unchanged (R120 step 3, R121 step 1). -/
def subHighNibble (rom : Vector Nibble 16) (k : Key) : Key :=
  lookup rom (k.extractLsb' 76 4) ++ k.extractLsb' 0 76

/-- The forward step on a key: XOR, rotate left by 61, forward table (R120). -/
def ksForward (tables : Tables) (r : Round) (k : Key) : Key :=
  subHighNibble tables.fwd (rotl80 (xorByte5 r k) 61)

/-- The inverse step on a key: inverse table, rotate left by 19, XOR (R121). -/
def ksInverse (tables : Tables) (r : Round) (k : Key) : Key :=
  xorByte5 r (rotl80 (subHighNibble tables.inv k) 19)

/-- µKSF(r) (R120): the forward table whatever TSEL holds (D18). -/
def microKsf (r : Round) (s : State) : Option State :=
  match s.key.get? with
  | some k => some { s with key := Reg.loaded (ksForward s.rom r k) }
  | none => none

/-- µKSI(r) (R121): the inverse table whatever TSEL holds (D18). -/
def microKsi (r : Round) (s : State) : Option State :=
  match s.key.get? with
  | some k => some { s with key := Reg.loaded (ksInverse s.rom r k) }
  | none => none

/-- KSF r (R122): acceptance; its one micro-step is µKSF(r). R = 0 is ILLEGAL. -/
def execKsf (r : Round) (s : State) : Host.Outcome State Fault Refusal :=
  issueRound r s fun s => s.startPrim (.ksf r)

/-- KSI r (R123): acceptance; its one micro-step is µKSI(r). R = 0 is ILLEGAL. -/
def execKsi (r : Round) (s : State) : Host.Outcome State Fault Refusal :=
  issueRound r s fun s => s.startPrim (.ksi r)

/-- The key states of R125, from K_1 = K: `keyState tables K n` is K_(n+1). -/
def keyState (tables : Tables) (k : Key) : Nat → Key
  | 0 => k
  | n + 1 => ksForward tables (BitVec.ofNat 5 (n + 1)) (keyState tables k n)

end Sys2Proof.Machine
end

