-- ==== Sys2Proof/Machine/Permutation.lean ====
section
/-! DEFINITION. 42_permutation.md: the wiring P, µPERM and PL. -/

namespace Sys2Proof.Machine

/-- `P(p) = 16*(p mod 4) + (p div 4)` (R110). -/
def permIndex (p : Nat) : Nat := 16 * (p % 4) + p / 4

/-- The permutation layer: from zero, `set_bit(out, P(p))` for every set bit p (R112). -/
def pLayer (b : Block) : Block :=
  (List.range 64).foldl (fun out p => if getBit b p then setBit out (permIndex p) else out) 0#64

/-- µPERM (R112). -/
def microPerm (s : State) : Option State :=
  match s.blk.get? with
  | some b => some { s with blk := Reg.loaded (pLayer b) }
  | none => none

/-- PL (R113): acceptance; its one micro-step is µPERM. -/
def execPl (s : State) : Host.Outcome State Fault Refusal :=
  issueCheck s fun s => s.startPrim .pl

end Sys2Proof.Machine
end

