-- ==== Sys2Proof/Machine/RegisterOps.lean ====
section
/-! DEFINITION. 40_register_ops.md: NOP, LDB, LDK, ARK and the key-mix micro-op µARK. A micro-op answers `none` where it
raises `ModelFault(UnloadedRead)`. -/

namespace Sys2Proof.Machine

/-- The key-mix of a block: `BLK ^ KEY[79:16]` (R97). -/
def keyMix (k : Key) (b : Block) : Block := xorWith b (roundKey k)

/-- µARK (R97). -/
def microArk (s : State) : Option State :=
  match s.blk.get?, s.key.get? with
  | some b, some k => some { s with blk := Reg.loaded (keyMix k b) }
  | _, _ => none

/-- NOP (R94): `done <- 1` at acceptance, no micro-step. -/
def execNop (s : State) : Host.Outcome State Fault Refusal :=
  issueCheck s fun s => s.finishAtOnce

/-- LDB (R95): `BLK <- Sample(din_blk); done <- 1`, no micro-step. -/
def execLdb (s : State) : Host.Outcome State Fault Refusal :=
  issueCheck s fun s => s.loadBlk.finishAtOnce

/-- LDK (R96): `KEY <- Sample(din_key); done <- 1`, no micro-step. -/
def execLdk (s : State) : Host.Outcome State Fault Refusal :=
  issueCheck s fun s => s.loadKey.finishAtOnce

/-- ARK (R98): acceptance; its one micro-step is `primOps .ark`. -/
def execArk (s : State) : Host.Outcome State Fault Refusal :=
  issueCheck s fun s => s.startPrim .ark

end Sys2Proof.Machine
end

