-- ==== Sys2Proof/Machine/Substitution.lean ====
section
/-! DEFINITION. 41_substitution.md: the substitution layer, µSUB and SL. -/

namespace Sys2Proof.Machine

/-- Lane i of a block: BLK[4i+3:4i] (R106). -/
def lane (b : Block) (i : Nat) : Nibble := b.extractLsb' (4 * i) 4

/-- `BLK[4i+3:4i] <- x`, the other lanes unchanged (R104). -/
def setLane (b : Block) (i : Nat) (x : Nibble) : Block :=
  (b &&& ~~~(0xF#64 <<< (4 * i))) ||| (x.zeroExtend 64 <<< (4 * i))

/-- `apply(b, τ) = { τ[b[7:4]], τ[b[3:0]] }` (R103). -/
def applyByte (rom : Vector Nibble 16) (b : Byte) : Byte :=
  lookup rom (b.extractLsb' 4 4) ++ lookup rom (b.extractLsb' 0 4)

/-- The substitution layer: every lane of the old block through the table (R104). -/
def sLayer (rom : Vector Nibble 16) (b : Block) : Block :=
  (List.range 16).foldl (fun out i => setLane out i (lookup rom (lane b i))) b

/-- µSUB, with the table TSEL selects (R104). -/
def microSub (s : State) : Option State :=
  match s.blk.get? with
  | some b => some { s with blk := Reg.loaded (sLayer (selectTable s.rom s.tsel) b) }
  | none => none

/-- SL (R105): at acceptance `TSEL <- T`; its one micro-step is µSUB. -/
def execSl (t : Table) (s : State) : Host.Outcome State Fault Refusal :=
  issueCheck s fun s => (s.setTsel t).startPrim (.sl t)

end Sys2Proof.Machine
end

