-- ==== Sys2Proof/Machine/Encrypt.lean ====
section
/-! DEFINITION. 44_encrypt.md: RNDE and ENC at acceptance, and ENC as a function (R143). Their micro-steps are run by
Machine/Sequencer.lean. -/

namespace Sys2Proof.Machine

/-- RNDE r (R140): at acceptance `TSEL <- FWD`. R = 0 is ILLEGAL. -/
def execRnde (r : Round) (s : State) : Host.Outcome State Fault Refusal :=
  issueRound r s fun s => (s.setTsel .fwd).startPrim (.rnde r)

/-- ENC (R141): both registers are seeded from the ports at acceptance. -/
def execEnc (s : State) : Host.Outcome State Fault Refusal :=
  issueCheck s fun s => (s.loadBlk.loadKey.setTsel .fwd).startSequencer .eRnd

/-- One round of the loop of R143 on the pair (b, k). -/
def encryptRound (tables : Tables) (bk : Block × Key) (r : Round) : Block × Key :=
  (pLayer (sLayer tables.fwd (keyMix bk.2 bk.1)), ksForward tables r bk.2)

/-- `encrypt(B, K)` of R143: the ciphertext and K_32. -/
def encryptFn (tables : Tables) (b : Block) (k : Key) : Block × Key :=
  let bk := roundsUp.foldl (encryptRound tables) (b, k)
  (keyMix bk.2 bk.1, bk.2)

end Sys2Proof.Machine
end

