-- ==== Sys2Proof/Machine/Decrypt.lean ====
section
/-! DEFINITION. 45_decrypt.md: RNDD and DEC at acceptance, and DEC as a function (R163). Their micro-steps are run by
Machine/Sequencer.lean. -/

namespace Sys2Proof.Machine

/-- RNDD r (R160): at acceptance `TSEL <- INV`. R = 0 is ILLEGAL. -/
def execRndd (r : Round) (s : State) : Host.Outcome State Fault Refusal :=
  issueRound r s fun s => (s.setTsel .inv).startPrim (.rndd r)

/-- DEC (R161): both registers are seeded from the ports at acceptance. -/
def execDec (s : State) : Host.Outcome State Fault Refusal :=
  issueCheck s fun s => (s.loadBlk.loadKey.setTsel .fwd).startSequencer .dFf

/-- One round of the second loop of R163 on the pair (b, k): the permutation layer is applied twice (C1, D20). -/
def decryptRound (tables : Tables) (bk : Block × Key) (r : Round) : Block × Key :=
  (sLayer tables.inv (pLayer (pLayer (keyMix bk.2 bk.1))), ksInverse tables r bk.2)

/-- The round operands 31..1, counting down (R163). -/
def roundsDown : List Round := roundsUp.reverse

/-- `decrypt(C, K)` of R163: the plaintext and the key the walk ends with. -/
def decryptFn (tables : Tables) (c : Block) (k : Key) : Block × Key :=
  let last := roundsUp.foldl (fun k r => ksForward tables r k) k
  let bk := roundsDown.foldl (decryptRound tables) (c, last)
  (keyMix bk.2 bk.1, bk.2)

end Sys2Proof.Machine
end

