-- ==== Sys2Proof/Machine/MicroOp.lean ====
section
/-! DEFINITION. The five micro-ops as data, the micro-op lists of the primitive commands and of the ENC and DEC rounds
(10_state.md R36, 44_encrypt.md R142, 45_decrypt.md R162). -/

namespace Sys2Proof.Machine

/-- "one of the five indivisible datapath operations" (R10). -/
inductive MicroOp where
  | ark
  | sub
  | perm
  | ksf (r : Round)
  | ksi (r : Round)
deriving DecidableEq, Repr

/-- The micro-op's effect; `none` where it raises `ModelFault(UnloadedRead)` (R36, R208). -/
def MicroOp.run : MicroOp → State → Option State
  | .ark => microArk
  | .sub => microSub
  | .perm => microPerm
  | .ksf r => microKsf r
  | .ksi r => microKsi r

/-- L(c), the micro-op list of a primitive command (R36); none for the commands that are not primitive. -/
def primOps : Instr → Option (List MicroOp)
  | .nop => none
  | .ldb => none
  | .ldk => none
  | .ark => some [.ark]
  | .sl _ => some [.sub]
  | .pl => some [.perm]
  | .ksf r => some [.ksf r]
  | .ksi r => some [.ksi r]
  | .rnde r => some [.ark, .sub, .perm, .ksf r]
  | .rndd r => some [.ark, .perm, .perm, .sub, .ksi r]
  | .enc => none
  | .dec => none

/-- The micro-steps of a command, from its acceptance to its end (R39). -/
def microSteps : Instr → Nat
  | .nop => 0
  | .ldb => 0
  | .ldk => 0
  | .ark => 1
  | .sl _ => 1
  | .pl => 1
  | .ksf _ => 1
  | .ksi _ => 1
  | .rnde _ => 4
  | .rndd _ => 5
  | .enc => 125
  | .dec => 187

/-- L(CMDL): the list of the latched command (R27, R37). -/
def State.latchedOps (s : State) : Option (List MicroOp) :=
  match s.cmdl.get? with
  | none => none
  | some w =>
    match decode w with
    | .ok c => primOps c
    | .error _ => none

/-- The micro-ops of an ENC round, in SUB order (R142). -/
def encryptOps (r : Round) : List MicroOp := [.ark, .sub, .perm, .ksf r]

/-- The micro-ops of a DEC round, in SUB order (R162). -/
def decryptOps (r : Round) : List MicroOp := [.ark, .perm, .perm, .sub, .ksi r]

/-- RC as a round number: present and in 1..31 (R142, R162: "RC = r in 1..31"). -/
def State.roundNumber? (s : State) : Option Round :=
  match s.rc.get? with
  | some r => if roundOk r then some r else none
  | none => none

end Sys2Proof.Machine
end

