-- ==== Sys2Proof/Machine/Dispatch.lean ====
section
/-! DEFINITION. The issue event of each legal command (10_state.md R34, R35): one arm per constructor, one meaning per
command. The micro-steps of an accepted command are the core's (Machine/Sequencer.lean; log 8). -/

namespace Sys2Proof.Machine

def exec (i : Instr) (s : State) : Host.Outcome State Fault Refusal :=
  match i with
  | .nop => Sys2Proof.Machine.execNop s
  | .ldb => Sys2Proof.Machine.execLdb s
  | .ldk => Sys2Proof.Machine.execLdk s
  | .ark => Sys2Proof.Machine.execArk s
  | .sl t => Sys2Proof.Machine.execSl t s
  | .pl => Sys2Proof.Machine.execPl s
  | .ksf r => Sys2Proof.Machine.execKsf r s
  | .ksi r => Sys2Proof.Machine.execKsi r s
  | .rnde r => Sys2Proof.Machine.execRnde r s
  | .rndd r => Sys2Proof.Machine.execRndd r s
  | .enc => Sys2Proof.Machine.execEnc s
  | .dec => Sys2Proof.Machine.execDec s

end Sys2Proof.Machine
end

