-- ==== Sys2Proof/Machine/Sequencer.lean ====
section
/-! DEFINITION. The core's micro-step `core_step()` (10_state.md R37) with the ENC sequencer (44_encrypt.md R142) and
the DEC sequencer (45_decrypt.md R162). -/

namespace Sys2Proof.Machine

/-- Perform one micro-op and then move the sequencer; a micro-op that raises `ModelFault` leaves the state faulted and
moves nothing (R37). -/
def perform (m : MicroOp) (s : State) (move : State → State) : Host.Outcome State Fault Refusal :=
  match m.run s with
  | some t => .next (move t)
  | none => .next s.raiseModelFault

/-- Perform `ops[SUB]`; past the end of the list no rule gives a step (log 11). -/
def performAt (ops : List MicroOp) (s : State) (move : State → State) : Host.Outcome State Fault Refusal :=
  match ops[s.sub.toNat]? with
  | some m => perform m s move
  | none => .fault .noMicroOp

/-- `SUB <- SUB + 1` (R26). -/
def State.advanceSub (s : State) : State := { s with sub := s.sub + 1 }

/-- PRIM: `if SUB + 1 == length(L) then complete() else SUB <- SUB + 1` (R37). -/
def primMove (ops : List MicroOp) (s : State) : State :=
  if s.sub.toNat + 1 = ops.length then s.complete else s.advanceSub

/-- E_RND after the micro-op: SUB advances; after µKSF, `if RC < 31: RC <- RC + 1; SUB <- 0 else: PHASE <- E_FIN`
(R142). -/
def encryptMove (r : Round) (s : State) : State :=
  if s.sub = 3 then
    if r.toNat < 31 then { s with rc := Reg.loaded (r + 1), sub := 0 } else { s with phase := .eFin }
  else s.advanceSub

/-- D_FF after the micro-op: `if RC < 31: RC <- RC + 1 else: TSEL <- INV; PHASE <- D_RND; RC <- 31; SUB <- 0`
(R162). -/
def fastForwardMove (r : Round) (s : State) : State :=
  if r.toNat < 31 then { s with rc := Reg.loaded (r + 1) }
  else { s with tsel := .inv, phase := .dRnd, rc := Reg.loaded 31, sub := 0 }

/-- D_RND after the micro-op: SUB advances; after µKSI, `if RC > 1: RC <- RC - 1; SUB <- 0 else: RC <- 0; PHASE <- D_FIN`
(R162). -/
def decryptMove (r : Round) (s : State) : State :=
  if s.sub = 4 then
    if 1 < r.toNat then { s with rc := Reg.loaded (r - 1), sub := 0 }
    else { s with rc := Reg.loaded 0, phase := .dFin }
  else s.advanceSub

/-- The PRIM micro-step (R37). -/
def primStep (s : State) : Host.Outcome State Fault Refusal :=
  match s.latchedOps with
  | some ops => performAt ops s (primMove ops)
  | none => .fault .noMicroOp

/-- The E_RND micro-step (R142). -/
def encryptStep (s : State) : Host.Outcome State Fault Refusal :=
  match s.roundNumber? with
  | some r => performAt (encryptOps r) s (encryptMove r)
  | none => .fault .noMicroOp

/-- The D_FF micro-step: only µKSF; the Block is untouched (R162, C7). -/
def fastForwardStep (s : State) : Host.Outcome State Fault Refusal :=
  match s.roundNumber? with
  | some r => perform (.ksf r) s (fastForwardMove r)
  | none => .fault .noMicroOp

/-- The D_RND micro-step (R162). -/
def decryptStep (s : State) : Host.Outcome State Fault Refusal :=
  match s.roundNumber? with
  | some r => performAt (decryptOps r) s (decryptMove r)
  | none => .fault .noMicroOp

/-- E_FIN and D_FIN: µARK, then `complete()` (R142, R162). -/
def finalMixStep (s : State) : Host.Outcome State Fault Refusal :=
  perform .ark s State.complete

/-- One core micro-step (R37). Where no step of the core exists its turn passes and nothing changes: in a model fault,
which "takes no further core step" and stands until reset (R208; log 4), and while idle (R37, R213; log 1). -/
def coreStep (s : State) : Host.Outcome State Fault Refusal :=
  match s.mfault with
  | some _ => .next s
  | none =>
    match s.phase with
    | .idle => .next s
    | .prim => primStep s
    | .eRnd => encryptStep s
    | .eFin => finalMixStep s
    | .dFf => fastForwardStep s
    | .dRnd => decryptStep s
    | .dFin => finalMixStep s

/-- `n` core micro-steps with no event of the host between them, stopping at the first stop. -/
def coreRun : Nat → State → Host.Outcome State Fault Refusal
  | 0, s => .next s
  | n + 1, s =>
    match coreStep s with
    | .next t => coreRun n t
    | .fault f => .fault f
    | .refused r => .refused r

end Sys2Proof.Machine
end

