-- ==== Sys2Proof/Machine/HostPort.lean ====
section
/-! DEFINITION. The host's turns and the interleaving of host and core (10_state.md R20, R34, R41;
70_reset_and_hazards.md R230 to R232). -/

namespace Sys2Proof.Machine

/-- An issue event with `w = Sample(cmd)` (R34): nothing while rst is held (R232), else the command's meaning, or the
rejection of an illegal word. -/
def issueEvent (s : State) : Host.Outcome State Fault Refusal :=
  if s.rst then .next s
  else
    match decode s.sampleCmd with
    | .ok i => exec i s
    | .error _ => issueIllegal s

/-- One turn: a micro-step of the core or one step of the host (R20). -/
def turnStep (turn : Turn) (s : State) : Host.Outcome State Fault Refusal :=
  match turn with
  | .core => coreStep s
  | .driveCmd w => .next { s with cmd := w }
  | .driveBlk b => .next { s with dinBlk := b }
  | .driveKey k => .next { s with dinKey := k }
  | .issue => issueEvent s
  | .assertRst => .next s.resetEvent
  | .assertRstAndIssue => .next s.resetEvent
  | .releaseRst => .next { s with rst := false }
  | .readOutputs => .next s

/-- The next turn of the schedule is taken; when none is listed the core has the turn (R43; logs 1, 16). Tables that
break R102 are no configuration of this hardware and are refused (R102; log 7). -/
def takeTurn (s : State) : Host.Outcome State Fault Refusal :=
  if lawfulTables s.rom then
    match s.schedule with
    | [] => coreStep s
    | turn :: rest => turnStep turn { s with schedule := rest }
  else .refused .unlawfulTables

/-- The host presents command word `w`: it stands on `cmd`, rst is low, and its issue is the very next turn (R30, R34;
log 2). -/
def presentCommand (s : State) (w : CmdWord) : State :=
  { s with cmd := w, rst := false, schedule := .issue :: s.schedule }

end Sys2Proof.Machine
end

