-- ==== Sys2Proof/Machine/Step.lean ====
section
/-! DEFINITION. One step of the machine, and how the host places a command where the machine takes it from. -/

namespace Sys2Proof.Machine

/-- One step: one turn of the core or of the host (R20). -/
def step (s : State) : Host.Outcome State Fault Refusal := takeTurn s

/-- The command whose bits are `w` is the next the host issues (log 2). Every bit above `nbits` is 0. -/
def State.withFetchWord (s : State) (nbits w : Nat) : State :=
  presentCommand s (BitVec.ofNat 16 (w % 2 ^ nbits))

end Sys2Proof.Machine
end

