-- ==== Sys2Proof/Machine/Assembler.lean ====
section
/-! DEFINITION. The host-side assembler of 30_encoding.md §4: the command syntax of R79 and the pseudo-commands of R80
(D25). The core sees only the words of the expansion. Text is a list of characters, one line at a time (log 19). -/

namespace Sys2Proof.Machine

/-- A line's content: a command, or a pseudo-command of R80. -/
inductive AsmLine where
  | cmd (i : Instr)
  | pli
  | kff
  | krw
  | arkFinal
deriving DecidableEq, Repr

/-- Why the assembler refuses a line (R79). -/
inductive AsmError where
  /-- no command or pseudo-command has this name -/
  | unknownMnemonic
  /-- "any operand on a command that takes none", a missing one, or one that is not of the command's form -/
  | badOperand
  /-- "an `<r>` outside 1..31" -/
  | roundOutOfRange
deriving DecidableEq, Repr

/-- The expansion of a line (R80). -/
def AsmLine.expand : AsmLine → List Instr
  | .cmd i => [i]
  | .pli => [.pl, .pl]
  | .kff => roundsUp.map .ksf
  | .krw => roundsUp.reverse.map .ksi
  | .arkFinal => [.ark]

/-- The digit a character is. -/
def digitOf (c : Char) : Option Nat :=
  if 48 ≤ c.toNat ∧ c.toNat ≤ 57 then some (c.toNat - 48) else none

/-- The value of a nonempty string of decimal digits. -/
def decimalOf : List Char → Option Nat
  | [] => none
  | cs => cs.foldl (fun acc c => acc.bind fun n => (digitOf c).map fun d => 10 * n + d) (some 0)

/-- `<r>`, "a decimal integer 1..31" (R79). -/
def roundOf (word : List Char) : Except AsmError Round :=
  match decimalOf word with
  | none => .error .badOperand
  | some n => if 1 ≤ n ∧ n ≤ 31 then .ok (BitVec.ofNat 5 n) else .error .roundOutOfRange

/-- A command with no operand. -/
def plainLine (line : AsmLine) : List (List Char) → Except AsmError AsmLine
  | [] => .ok line
  | _ => .error .badOperand

/-- A command with a round operand. -/
def roundLine (command : Round → Instr) : List (List Char) → Except AsmError AsmLine
  | [word] => (roundOf word).map fun r => .cmd (command r)
  | _ => .error .badOperand

/-- `sl fwd` or `sl inv`. -/
def tableLine : List (List Char) → Except AsmError AsmLine
  | [word] =>
    if word = ['f', 'w', 'd'] then .ok (.cmd (.sl .fwd))
    else if word = ['i', 'n', 'v'] then .ok (.cmd (.sl .inv))
    else .error .badOperand
  | _ => .error .badOperand

/-- The names of the commands and pseudo-commands, lower case (R79, R80), and how each reads its operands. -/
def asmNames : List (List Char × (List (List Char) → Except AsmError AsmLine)) :=
  [(['n', 'o', 'p'], plainLine (.cmd .nop)),
   (['l', 'd', 'b'], plainLine (.cmd .ldb)),
   (['l', 'd', 'k'], plainLine (.cmd .ldk)),
   (['a', 'r', 'k'], plainLine (.cmd .ark)),
   (['s', 'l'], tableLine),
   (['p', 'l'], plainLine (.cmd .pl)),
   (['k', 's', 'f'], roundLine .ksf),
   (['k', 's', 'i'], roundLine .ksi)] ++
  [(['r', 'n', 'd', 'e'], roundLine .rnde),
   (['r', 'n', 'd', 'd'], roundLine .rndd),
   (['e', 'n', 'c'], plainLine (.cmd .enc)),
   (['d', 'e', 'c'], plainLine (.cmd .dec)),
   (['p', 'l', 'i'], plainLine .pli),
   (['k', 'f', 'f'], plainLine .kff),
   (['k', 'r', 'w'], plainLine .krw),
   (['a', 'r', 'k', '_', 'f', 'i', 'n', 'a', 'l'], plainLine .arkFinal)]

/-- The words of a line: what stands between spaces and tabs, up to a `;` (R79). -/
def wordsOf : List Char → List (List Char)
  | [] => []
  | c :: cs =>
    if c = ';' then []
    else if c = ' ' ∨ c = '\t' then wordsOf cs
    else
      match cs, wordsOf cs with
      | d :: _, w :: ws => if d = ' ' ∨ d = '\t' ∨ d = ';' then [c] :: w :: ws else (c :: w) :: ws
      | _, ws => [c] :: ws

/-- One line: nothing for an empty line or a comment (R79). -/
def parseLine (line : List Char) : Except AsmError (Option AsmLine) :=
  match wordsOf line with
  | [] => .ok none
  | name :: operands =>
    match asmNames.find? fun entry => entry.1 == name with
    | some entry => (entry.2 operands).map some
    | none => .error .unknownMnemonic

/-- The command words of a program text, in order (R80, R82). -/
def assemble : List (List Char) → Except AsmError (List CmdWord)
  | [] => .ok []
  | line :: lines =>
    match parseLine line, assemble lines with
    | .error e, _ => .error e
    | .ok _, .error e => .error e
    | .ok none, .ok ws => .ok ws
    | .ok (some l), .ok ws => .ok (l.expand.map encode ++ ws)

/-- A round operand in decimal. -/
def showRound (r : Round) : List Char :=
  if r.toNat < 10 then [Char.ofNat (48 + r.toNat)]
  else [Char.ofNat (48 + r.toNat / 10), Char.ofNat (48 + r.toNat % 10)]

/-- A command in the syntax of R79. -/
def asmOf : Instr → List Char
  | .nop => ['n', 'o', 'p']
  | .ldb => ['l', 'd', 'b']
  | .ldk => ['l', 'd', 'k']
  | .ark => ['a', 'r', 'k']
  | .sl .fwd => ['s', 'l', ' ', 'f', 'w', 'd']
  | .sl .inv => ['s', 'l', ' ', 'i', 'n', 'v']
  | .pl => ['p', 'l']
  | .ksf r => ['k', 's', 'f', ' '] ++ showRound r
  | .ksi r => ['k', 's', 'i', ' '] ++ showRound r
  | .rnde r => ['r', 'n', 'd', 'e', ' '] ++ showRound r
  | .rndd r => ['r', 'n', 'd', 'd', ' '] ++ showRound r
  | .enc => ['e', 'n', 'c']
  | .dec => ['d', 'e', 'c']

end Sys2Proof.Machine
end

