-- ==== Sys2Proof/Safety.lean ====
section
/-! DEFINITION. The terms in which statements speak of runs: a ready core, the end of a command (10_state.md R40), the
invariant that every step keeps, and the illegal words as the rules list them. -/

namespace Sys2Proof.Machine

/-- No command is in progress and no model fault stands: a legal command issued now is accepted (R34). -/
abbrev State.Ready (s : State) : Prop := s.phase = .idle ∧ s.busy = false ∧ s.mfault = none

/-- A command has ended: busy = 0 and done = 1 (R40). -/
abbrev State.Ended (s : State) : Prop := s.busy = false ∧ s.done = true

/-- The turn asserts reset (R230, R232). -/
def Turn.resets : Turn → Bool
  | .core => false
  | .driveCmd _ => false
  | .driveBlk _ => false
  | .driveKey _ => false
  | .issue => false
  | .assertRst => true
  | .assertRstAndIssue => true
  | .releaseRst => false
  | .readOutputs => false

/-- The turn that the next step takes: the first one listed, else the core's (R43). -/
def State.turn (s : State) : Turn := s.schedule.headD .core

/-- An illegal word, cause by cause as R202 lists them (R76, R77). -/
abbrev IllegalByRule (w : CmdWord) : Prop :=
  12 ≤ (w.extractLsb' 0 4).toNat ∨
  w.extractLsb' 10 6 ≠ 0 ∨
  (w.extractLsb' 4 1 = 1 ∧ w.extractLsb' 0 4 ≠ 4) ∨
  (w.extractLsb' 5 5 ≠ 0 ∧ w.extractLsb' 0 4 ∉ ([6, 7, 8, 9] : List (BitVec 4))) ∨
  (w.extractLsb' 5 5 = 0 ∧ w.extractLsb' 0 4 ∈ ([6, 7, 8, 9] : List (BitVec 4)))

/-- The command latched in CMDL, if one is (R27). -/
def State.latched (s : State) : Option Instr :=
  match s.cmdl.get? with
  | none => none
  | some w =>
    match decode w with
    | .ok c => some c
    | .error _ => none

/-- The table a primitive command sets TSEL to at its acceptance (R25, R35). -/
def tableSetBy : Instr → Option Table
  | .nop => none
  | .ldb => none
  | .ldk => none
  | .ark => none
  | .sl t => some t
  | .pl => none
  | .ksf _ => none
  | .ksi _ => none
  | .rnde _ => some .fwd
  | .rndd _ => some .inv
  | .enc => some .fwd
  | .dec => some .fwd

/-- The phases of the ENC and DEC sequencers (R26). -/
def Phase.isCipher : Phase → Bool
  | .idle => false
  | .prim => false
  | .eRnd => true
  | .eFin => true
  | .dFf => true
  | .dRnd => true
  | .dFin => true

/-- The invariant of the machine: what every step keeps. -/
structure State.Inv (s : State) : Prop where
  /-- "busy = 1 exactly when PHASE ≠ IDLE" (R28) -/
  busy_iff : s.busy = true ↔ s.phase ≠ .idle
  /-- done is 0 while a command runs (R28, R34, R35) -/
  busy_not_done : s.busy = true → s.done = false
  /-- PRIM runs a latched primitive command, with SUB an index into its micro-op list (R26, R37) -/
  prim_index : s.phase = .prim → ∃ ops, s.latchedOps = some ops ∧ s.sub.toNat < ops.length
  /-- the table a latched primitive command set is still selected (R25) -/
  prim_table : s.phase = .prim → ∀ c t, s.latched = some c → tableSetBy c = some t → s.tsel = t
  /-- E_RND: RC = r in 1..31, SUB in 0..3, TSEL = FWD (R26, R142) -/
  enc_round : s.phase = .eRnd → s.roundNumber?.isSome ∧ s.sub.toNat < 4 ∧ s.tsel = .fwd
  /-- E_FIN: RC stays 31, TSEL = FWD (R142) -/
  enc_final : s.phase = .eFin → s.rc = Reg.loaded 31 ∧ s.tsel = .fwd
  /-- D_FF: RC = r in 1..31, TSEL = FWD (R162) -/
  dec_forward : s.phase = .dFf → s.roundNumber?.isSome ∧ s.tsel = .fwd
  /-- D_RND: RC = r in 1..31, SUB in 0..4, TSEL = INV (R26, R162) -/
  dec_round : s.phase = .dRnd → s.roundNumber?.isSome ∧ s.sub.toNat < 5 ∧ s.tsel = .inv
  /-- D_FIN: "round_counter = 0", TSEL = INV (R162) -/
  dec_final : s.phase = .dFin → s.rc = Reg.loaded 0 ∧ s.tsel = .inv
  /-- ENC and DEC seeded both data registers at acceptance (R35, R145) -/
  seeded : s.phase.isCipher = true → s.blk.present = true ∧ s.key.present = true ∧ s.mfault = none
  /-- a model fault stands only in a primitive command that found a register absent (R208) -/
  faulted : s.mfault ≠ none → s.phase = .prim ∧ (s.blk.present = false ∨ s.key.present = false)
  /-- while rst is held the core stays in the state of R33 (R230, R232) -/
  held : s.rst = true →
    s.blk.present = false ∧ s.key.present = false ∧ s.rc.present = false ∧ s.cmdl.present = false ∧
    s.tsel = .fwd ∧ s.phase = .idle ∧ s.sub = 0 ∧ s.busy = false ∧ s.done = false ∧ s.err = .ok ∧ s.mfault = none

/-- `n` turns, as the schedule lists them, stopping at the first stop. -/
def run : Nat → State → Host.Outcome State Fault Refusal
  | 0, s => .next s
  | n + 1, s =>
    match step s with
    | .next t => run n t
    | .fault f => .fault f
    | .refused r => .refused r

/-- A next state carried through `f`; a stop stays as it is. -/
def mapNext (f : State → State) : Host.Outcome State Fault Refusal → Host.Outcome State Fault Refusal
  | .next s => .next (f s)
  | .fault r => .fault r
  | .refused r => .refused r

/-- The same state with other values on the data input ports. -/
def State.withInputs (s : State) (b : Block) (k : Key) : State := { s with dinBlk := b, dinKey := k }

/-- The micro-steps left of the command in progress (R39). -/
def State.remaining (s : State) : Nat :=
  match s.phase with
  | .idle => 0
  | .prim => (s.latchedOps.getD []).length - s.sub.toNat
  | .eRnd => 4 * (31 - s.rc.value.toNat) + (4 - s.sub.toNat) + 1
  | .eFin => 1
  | .dFf => (32 - s.rc.value.toNat) + 156
  | .dRnd => 5 * (s.rc.value.toNat - 1) + (5 - s.sub.toNat) + 1
  | .dFin => 1

end Sys2Proof.Machine
end

