-- ==== Sys2Proof/Certificates/Slice0/Obligations.lean ====
section
/-! DEFINITION. The statements about the model, each a `def Obligations.<Name> : Prop`, listed in OBLIGATIONS.json with
the rules of spec/ they come from. An equation `exec i s = .next { s with … }` gives the whole next state, so it is the
command's frame too. -/

open Sys2Proof Sys2Proof.Machine

/-! ### Encoding (30_encoding.md) -/

/-- Words of 95_test_vectors.md §2.1 decode as its table says, one of each family and the illegal ones. -/
def Obligations.TableWordsDecode : Prop :=
  decode 0x0000 = .ok .nop ∧ decode 0x0001 = .ok .ldb ∧ decode 0x0002 = .ok .ldk ∧ decode 0x0003 = .ok .ark ∧
  decode 0x0004 = .ok (.sl .fwd) ∧ decode 0x0014 = .ok (.sl .inv) ∧ decode 0x0005 = .ok .pl ∧
  decode 0x0026 = .ok (.ksf 1) ∧ decode 0x03E6 = .ok (.ksf 31) ∧ decode 0x0027 = .ok (.ksi 1) ∧
  decode 0x0228 = .ok (.rnde 17) ∧ decode 0x03E9 = .ok (.rndd 31) ∧ decode 0x000A = .ok .enc ∧
  decode 0x000B = .ok .dec ∧
  ∀ w ∈ ([0x0006, 0x0009, 0x0010, 0x0015, 0x0020, 0x002A, 0x0034, 0x000C, 0x000F, 0x0400, 0x8003, 0xFFFF] :
    List CmdWord), ∃ e, decode w = .error e

/-- The encoder's formula and examples of R82, and that decode and encode are mutually inverse on the legal words
and the well-formed commands: "For every word w, `decode(w) = Cmd(c)` implies `encode(c) = w`, and
`decode(encode(c)) = Cmd(c)` for every legal c", which the spec marks as derived. -/
def Obligations.DecodeAndEncodeAgree : Prop :=
  (∀ i : Instr, encode i = i.op.zeroExtend 16 ||| (i.tBit.zeroExtend 16 <<< 4) ||| (i.round.zeroExtend 16 <<< 5)) ∧
  (∀ i : Instr, (encode i).extractLsb' 10 6 = 0) ∧
  encode (.ksf 1) = 0x0026 ∧ encode (.ksf 31) = 0x03E6 ∧ encode (.rnde 17) = 0x0228 ∧ encode (.rndd 31) = 0x03E9 ∧
  encode (.sl .inv) = 0x0014 ∧ encode .enc = 0x000A ∧ encode .dec = 0x000B ∧
  (∀ w i, decode w = .ok i → encode i = w ∧ i.wf = true) ∧
  (∀ i : Instr, i.wf = true → decode (encode i) = .ok i)

/-- R76: the decoder refuses exactly the words with a reserved OP and those that break (a) to (d); and the masks of
the opcode map encode (a) to (c). -/
def Obligations.IllegalWordsAreExactlyTheListed : Prop :=
  (∀ w : CmdWord, (∃ e, decode w = .error e) ↔
    12 ≤ (w.extractLsb' 0 4).toNat ∨
    w.extractLsb' 10 6 ≠ 0 ∨
    (w.extractLsb' 4 1 = 1 ∧ w.extractLsb' 0 4 ≠ 4) ∨
    (w.extractLsb' 5 5 ≠ 0 ∧ w.extractLsb' 0 4 ∉ ([6, 7, 8, 9] : List (BitVec 4))) ∨
    (w.extractLsb' 5 5 = 0 ∧ w.extractLsb' 0 4 ∈ ([6, 7, 8, 9] : List (BitVec 4)))) ∧
  (∀ w : CmdWord, (∃ row ∈ opcodeMap, w &&& row.mask = row.pattern) ↔
    (w.extractLsb' 0 4).toNat < 12 ∧
    w.extractLsb' 10 6 = 0 ∧
    (w.extractLsb' 4 1 = 1 → w.extractLsb' 0 4 = 4) ∧
    (w.extractLsb' 5 5 ≠ 0 → w.extractLsb' 0 4 ∈ ([6, 7, 8, 9] : List (BitVec 4))))

/-- R75: a word decodes to a command of a row exactly when it selects the row and meets its constraint; the rows are
disjoint; "133 of the 65536 words are legal; every other word is illegal", which the spec marks as derived. -/
def Obligations.OpcodeMapDecodes133Words : Prop :=
  (∀ (w : CmdWord) (row : OpcodeRow), row ∈ opcodeMap →
    ((w &&& row.mask = row.pattern ∧ (row.mask = 0xFC1F → 1 ≤ (w.extractLsb' 5 5).toNat)) ↔
      ∃ i, decode w = .ok i ∧ i.row = row)) ∧
  opcodeMap.length = 12 ∧
  (opcodeMap.Pairwise fun a b => ∀ w, ¬(a.selects w = true ∧ b.selects w = true)) ∧
  (legalInstrs.map encode).Nodup ∧ (legalInstrs.map encode).length = 133 ∧
  (∀ w, (∃ i, decode w = .ok i) ↔ w ∈ legalInstrs.map encode)

/-- The assembler reads every command printed in the syntax of R79, and gives that command's word and no other. -/
def Obligations.AssemblerReadsEveryCommand : Prop :=
  ∀ i : Instr, i.wf = true →
    parseLine (asmOf i) = .ok (some (.cmd i)) ∧ assemble [asmOf i] = .ok [encode i]

/-- R80: the pseudo-commands are read and expanded. -/
def Obligations.PseudoCommandsExpand : Prop :=
  assemble [['p', 'l', 'i']] = .ok [encode .pl, encode .pl] ∧
  assemble [['k', 'f', 'f']] = .ok ((List.range 31).map fun n => encode (.ksf (BitVec.ofNat 5 (n + 1)))) ∧
  assemble [['k', 'r', 'w']] = .ok ((List.range 31).map fun n => encode (.ksi (BitVec.ofNat 5 (31 - n)))) ∧
  assemble [['a', 'r', 'k', '_', 'f', 'i', 'n', 'a', 'l']] = .ok [encode .ark]

/-! ### The issue event (10_state.md R34, R35; 60_exceptions.md) -/

/-- R35: the acceptance action of every command, whole, on an idle core. -/
def Obligations.AcceptanceActions : Prop :=
  ∀ (s : State) (t : Table) (r : Round), s.busy = false → roundOk r = true →
    exec .nop s = .next { s with err := .ok, done := true } ∧
    exec .ldb s = .next { s with err := .ok, done := true, blk := ⟨s.dinBlk, true⟩ } ∧
    exec .ldk s = .next { s with err := .ok, done := true, key := ⟨s.dinKey, true⟩ } ∧
    exec .ark s = .next { s with
      err := .ok, done := false, cmdl := ⟨0x0003, true⟩, phase := .prim, sub := 0, busy := true } ∧
    exec (.sl t) s = .next { s with
      err := .ok, done := false, tsel := t, cmdl := ⟨encode (.sl t), true⟩, phase := .prim, sub := 0, busy := true } ∧
    exec .pl s = .next { s with
      err := .ok, done := false, cmdl := ⟨0x0005, true⟩, phase := .prim, sub := 0, busy := true } ∧
    exec (.ksf r) s = .next { s with
      err := .ok, done := false, cmdl := ⟨encode (.ksf r), true⟩, phase := .prim, sub := 0, busy := true } ∧
    exec (.ksi r) s = .next { s with
      err := .ok, done := false, cmdl := ⟨encode (.ksi r), true⟩, phase := .prim, sub := 0, busy := true } ∧
    exec (.rnde r) s = .next { s with
      err := .ok, done := false, tsel := .fwd, cmdl := ⟨encode (.rnde r), true⟩, phase := .prim, sub := 0,
      busy := true } ∧
    exec (.rndd r) s = .next { s with
      err := .ok, done := false, tsel := .inv, cmdl := ⟨encode (.rndd r), true⟩, phase := .prim, sub := 0,
      busy := true } ∧
    exec .enc s = .next { s with
      err := .ok, done := false, blk := ⟨s.dinBlk, true⟩, key := ⟨s.dinKey, true⟩, tsel := .fwd, phase := .eRnd,
      rc := ⟨1, true⟩, sub := 0, busy := true } ∧
    exec .dec s = .next { s with
      err := .ok, done := false, blk := ⟨s.dinBlk, true⟩, key := ⟨s.dinKey, true⟩, tsel := .fwd, phase := .dFf,
      rc := ⟨1, true⟩, sub := 0, busy := true }

/-- NOP, LDB and LDK end at their issue with status done alone; the outputs show the loaded values (R94 to R96). -/
def Obligations.NopAndLoadsFinishAtOnce : Prop :=
  ∀ s : State, s.busy = false →
    (∃ t, exec .nop s = .next t ∧ t.status = 0b0010 ∧ t.blk = s.blk ∧ t.key = s.key) ∧
    (∃ t, exec .ldb s = .next t ∧ t.status = 0b0010 ∧ t.doutBlk = s.dinBlk ∧ t.key = s.key ∧
      ∀ j : Fin 8, blockByte t.doutBlk j = s.dinBlk.extractLsb' (56 - 8 * j.val) 8) ∧
    (∃ t, exec .ldk s = .next t ∧ t.status = 0b0010 ∧ t.doutKey = s.dinKey ∧ t.blk = s.blk ∧ t.rc = s.rc ∧
      ∀ j : Fin 10, keyByte t.doutKey j = s.dinKey.extractLsb' (72 - 8 * j.val) 8)

/-- A step whose turn is the host's issue of a legal word is that command's meaning, on the state whose schedule has
moved past the turn. -/
def Obligations.StepRunsDecodedCommand : Prop :=
  ∀ (s : State) (i : Instr) (rest : List Turn),
    lawfulTables s.rom = true → s.rst = false → s.schedule = .issue :: rest → decode s.cmd = .ok i →
      step s = exec i { s with schedule := rest }

/-- The word the host places is the one the very next step runs (the model's placing of a command, log 2). -/
def Obligations.PlacedWordRunsNext : Prop :=
  ∀ (s : State) (w : CmdWord) (i : Instr),
    lawfulTables s.rom = true → decode w = .ok i →
      decodeTableWord 16 w.toNat = some i ∧
      step (s.withFetchWord 16 w.toNat) = exec i { s with cmd := w, rst := false }

/-- R202: an illegal word issued while busy = 0 does `err <- 1; done <- 1` and nothing else. -/
def Obligations.IllegalIssueOnlySetsErrAndDone : Prop :=
  ∀ (s : State) (rest : List Turn),
    lawfulTables s.rom = true → s.rst = false → s.busy = false → s.schedule = .issue :: rest →
    IllegalByRule s.cmd →
      step s = .next { s with schedule := rest, err := .illegal, done := true }

/-- R203: any word issued while busy = 1 does `err <- 2` and nothing else; a legal command issued then is dropped by
its own meaning; and the running command continues unaffected, since its micro-steps do the same whatever err holds.
-/
def Obligations.BusyIssueOnlySetsErr : Prop :=
  (∀ (s : State) (rest : List Turn),
    lawfulTables s.rom = true → s.rst = false → s.busy = true → s.schedule = .issue :: rest →
      step s = .next { s with schedule := rest, err := .busy }) ∧
  (∀ (s : State) (i : Instr), s.busy = true → exec i s = .next { s with err := .busy }) ∧
  (∀ (s : State) (e : Err) (n : Nat),
    coreRun n { s with err := e } = mapNext (fun t => { t with err := e }) (coreRun n s))

/-- A command with R = 0 given to its meaning is the illegal word it would be (R76 (d); the model's totality, log
9). -/
def Obligations.ZeroRoundOperandIsIllegal : Prop :=
  ∀ (s : State) (i : Instr), s.busy = false → i.wf = false →
    exec i s = .next { s with err := .illegal, done := true }

/-- R206: err is sticky. An accepted issue writes OK, a rejected one its own code, and no other turn but reset
changes it: completion leaves it. NOP clears it and changes only done beside it. -/
def Obligations.ErrChangesOnlyAtIssueOrReset : Prop :=
  (∀ s t : State, step s = .next t → s.turn.resets = false →
    t.err =
      if s.turn = .issue ∧ s.rst = false then
        if s.busy then .busy else if IllegalByRule s.cmd then .illegal else .ok
      else s.err) ∧
  (∀ s : State, s.busy = false → exec .nop s = .next { s with err := .ok, done := true })

/-! ### The micro-ops (files 40 to 43) and the primitive commands (files 40 to 45) -/

/-- µARK (R97), µSUB (R104) and µPERM (R112), each on every state. `none` is `raise ModelFault(UnloadedRead)`: see
UnloadedReadFaultsUntilReset. -/
def Obligations.DatapathMicroOps : Prop :=
  ∀ s : State,
    (s.blk.present = false ∨ s.key.present = false → MicroOp.ark.run s = none) ∧
    (s.blk.present = true → s.key.present = true →
      MicroOp.ark.run s = some { s with blk := ⟨s.blk.value ^^^ s.key.value.extractLsb' 16 64, true⟩ }) ∧
    (s.blk.present = false → MicroOp.sub.run s = none ∧ MicroOp.perm.run s = none) ∧
    (s.blk.present = true →
      (∃ b : Block, MicroOp.sub.run s = some { s with blk := ⟨b, true⟩ } ∧
        ∀ i : Fin 16, b.extractLsb' (4 * i.val) 4 =
          lookup (match s.tsel with | .fwd => s.rom.fwd | .inv => s.rom.inv)
            (s.blk.value.extractLsb' (4 * i.val) 4)) ∧
      ∃ b : Block, MicroOp.perm.run s = some { s with blk := ⟨b, true⟩ } ∧
        ∀ q : Nat, q < 64 →
          (b.getLsbD q = true ↔ ∃ p, p < 64 ∧ s.blk.value.getLsbD p = true ∧ q = 16 * (p % 4) + p / 4))

/-- ARK on a ready core with both registers loaded: one micro-step XORs KEY[79:16] into BLK (R98). -/
def Obligations.ArkMixesHighKeyBits : Prop :=
  ∀ s : State, s.Ready → s.blk.present = true → s.key.present = true →
    ∃ t, exec .ark s = .next t ∧
      coreRun 1 t = .next { s with
        blk := ⟨s.blk.value ^^^ s.key.value.extractLsb' 16 64, true⟩, cmdl := ⟨0x0003, true⟩, sub := 0,
        err := .ok, done := true }

/-- SL on a ready core with BLK loaded: TSEL takes T, and one micro-step puts every nibble lane through the table T
names (R104, R105). -/
def Obligations.SlSubstitutesEveryLane : Prop :=
  ∀ (s : State) (t : Table), s.Ready → s.blk.present = true →
    ∃ u v, exec (.sl t) s = .next u ∧ coreRun 1 u = .next v ∧
      v = { s with
        blk := v.blk, tsel := t, cmdl := ⟨encode (.sl t), true⟩, sub := 0, err := .ok, done := true } ∧
      v.blk.present = true ∧
      ∀ i : Fin 16, v.blk.value.extractLsb' (4 * i.val) 4 =
        lookup (match t with | .fwd => s.rom.fwd | .inv => s.rom.inv) (s.blk.value.extractLsb' (4 * i.val) 4)

/-- R103: `apply` substitutes the two nibbles of a byte; and the lane-wise layer is `apply` on each of the block's
bytes (the spec's derived remark under R104). -/
def Obligations.LayerIsByteWiseApply : Prop :=
  (∀ (rom : Vector Nibble 16) (b : Block) (j : Fin 8),
    blockByte (sLayer rom b) j = applyByte rom (blockByte b j)) ∧
  (∀ (rom : Vector Nibble 16) (b : Byte),
    (applyByte rom b).extractLsb' 4 4 = lookup rom (b.extractLsb' 4 4) ∧
    (applyByte rom b).extractLsb' 0 4 = lookup rom (b.extractLsb' 0 4))

/-- R102: the table laws say that the tables are mutual inverses at every nibble; lawful tables are permutations of
0..15; and a configuration that breaks the laws is refused. -/
def Obligations.LawfulTablesArePermutations : Prop :=
  (∀ tables : Tables, lawfulTables tables = true ↔
    ∀ v : Nibble, lookup tables.inv (lookup tables.fwd v) = v ∧ lookup tables.fwd (lookup tables.inv v) = v) ∧
  (∀ tables : Tables, lawfulTables tables = true →
    ∀ y : Nibble, (∃! x, lookup tables.fwd x = y) ∧ (∃! x, lookup tables.inv x = y)) ∧
  (∀ s : State, lawfulTables s.rom = false → step s = .refused .unlawfulTables)

/-- `sl inv` after `sl fwd` restores the block, and `sl fwd` after `sl inv` too, for all lawful tables (R105). -/
def Obligations.SubstitutionLayersAreInverse : Prop :=
  ∀ (tables : Tables) (b : Block), lawfulTables tables = true →
    sLayer tables.inv (sLayer tables.fwd b) = b ∧ sLayer tables.fwd (sLayer tables.inv b) = b

/-- PL on a ready core with BLK loaded: one micro-step moves bit p to bit 16*(p mod 4) + p div 4 (R110, R112, R113).
-/
def Obligations.PlMovesEveryBit : Prop :=
  ∀ s : State, s.Ready → s.blk.present = true →
    ∃ t u, exec .pl s = .next t ∧ coreRun 1 t = .next u ∧
      u = { s with blk := u.blk, cmdl := ⟨0x0005, true⟩, sub := 0, err := .ok, done := true } ∧
      u.blk.present = true ∧
      ∀ p : Nat, p < 64 → u.blk.value.getLsbD (16 * (p % 4) + p / 4) = s.blk.value.getLsbD p

/-- R111: P is a bijection on 0..63; its fixed points are 0, 21, 42 and 63 (marked as derived in the spec). -/
def Obligations.WiringIsABijection : Prop :=
  (∀ p : Fin 64, permIndex p.val < 64) ∧
  (∀ p q : Fin 64, permIndex p.val = permIndex q.val → p = q) ∧
  (∀ q : Fin 64, ∃ p : Fin 64, permIndex p.val = q.val) ∧
  (∀ p : Fin 64, permIndex p.val = p.val ↔ p.val = 0 ∨ p.val = 21 ∨ p.val = 42 ∨ p.val = 63)

/-- R114, marked as derived in the spec: P has order 3 and P∘P is its inverse; three permutation layers are the
identity, and PL keeps the zero and the all-ones block (R113). -/
def Obligations.PermutationHasOrderThree : Prop :=
  (∀ p : Nat, p < 64 → permIndex (permIndex p) = 4 * (p % 16) + p / 16 ∧ permIndex (permIndex (permIndex p)) = p) ∧
  (∀ b : Block, pLayer (pLayer (pLayer b)) = b) ∧
  pLayer 0 = 0 ∧ pLayer (BitVec.allOnes 64) = BitVec.allOnes 64

/-- KSF and KSI on a ready core with KEY loaded: one micro-step is the schedule step with r from R, whatever TSEL
holds; BLK, RC and TSEL are untouched (R122, R123). -/
def Obligations.KsfAndKsiStepTheKey : Prop :=
  ∀ (s : State) (r : Round), s.Ready → s.key.present = true → roundOk r = true →
    (∃ t, exec (.ksf r) s = .next t ∧
      coreRun 1 t = .next { s with
        key := ⟨ksForward s.rom r s.key.value, true⟩, cmdl := ⟨encode (.ksf r), true⟩, sub := 0, err := .ok,
        done := true }) ∧
    (∃ t, exec (.ksi r) s = .next t ∧
      coreRun 1 t = .next { s with
        key := ⟨ksInverse s.rom r s.key.value, true⟩, cmdl := ⟨encode (.ksi r), true⟩, sub := 0, err := .ok,
        done := true })

/-- R120 bit by bit: an absent KEY raises the model fault; else r is XORed into bits 38..34, bit n moves to bit (n +
61) mod 80, and the new bits 79..76 go through SBOX, whatever TSEL holds; nothing else changes. -/
def Obligations.ForwardStepBits : Prop :=
  ∀ (s : State) (r : Round),
    (s.key.present = false → MicroOp.run (.ksf r) s = none) ∧
    (s.key.present = true → ∃ k : Key, MicroOp.run (.ksf r) s = some { s with key := ⟨k, true⟩ } ∧
      (∀ n : Nat, n < 80 → (n + 61) % 80 < 76 →
        k.getLsbD ((n + 61) % 80) = ((s.key.value.getLsbD n) ^^ (decide (34 ≤ n) && r.getLsbD (n - 34)))) ∧
      k.extractLsb' 76 4 = lookup s.rom.fwd (s.key.value.extractLsb' 15 4))

/-- R121 bit by bit: an absent KEY raises the model fault; else SBOX_INV on bits 79..76, bit n to bit (n + 19) mod
80, then r into bits 38..34, whatever TSEL holds; nothing else changes. -/
def Obligations.InverseStepBits : Prop :=
  ∀ (s : State) (r : Round),
    (s.key.present = false → MicroOp.run (.ksi r) s = none) ∧
    (s.key.present = true → ∃ k : Key, MicroOp.run (.ksi r) s = some { s with key := ⟨k, true⟩ } ∧
      ∀ n : Nat, n < 80 →
        k.getLsbD ((n + 19) % 80) =
          ((if n < 76 then s.key.value.getLsbD n
            else (lookup s.rom.inv (s.key.value.extractLsb' 76 4)).getLsbD (n - 76)) ^^
            (decide (34 ≤ (n + 19) % 80) && r.getLsbD ((n + 19) % 80 - 34))))

/-- R124, which the spec marks as derived: for lawful tables the two schedule steps undo each other, for every key
and every r. -/
def Obligations.ScheduleStepsAreInverse : Prop :=
  ∀ (tables : Tables) (r : Round) (k : Key), lawfulTables tables = true → roundOk r = true →
    ksInverse tables r (ksForward tables r k) = k ∧ ksForward tables r (ksInverse tables r k) = k

/-- RNDE on a ready core with both registers loaded: key-mix, forward table, permutation, forward schedule step, in
four micro-steps; RC is untouched and TSEL = FWD afterwards (R140). -/
def Obligations.RndeRunsOneForwardRound : Prop :=
  ∀ (s : State) (r : Round), s.Ready → s.blk.present = true → s.key.present = true → roundOk r = true →
    ∃ t, exec (.rnde r) s = .next t ∧
      coreRun 4 t = .next { s with
        blk := ⟨pLayer (sLayer s.rom.fwd (s.blk.value ^^^ s.key.value.extractLsb' 16 64)), true⟩
        key := ⟨ksForward s.rom r s.key.value, true⟩
        tsel := .fwd, cmdl := ⟨encode (.rnde r), true⟩, sub := 3, err := .ok, done := true }

/-- RNDD on a ready core with both registers loaded: key-mix, the permutation twice, inverse table, inverse schedule
step, in five micro-steps; RC is untouched and TSEL = INV afterwards (R160). -/
def Obligations.RnddRunsOneInverseRound : Prop :=
  ∀ (s : State) (r : Round), s.Ready → s.blk.present = true → s.key.present = true → roundOk r = true →
    ∃ t, exec (.rndd r) s = .next t ∧
      coreRun 5 t = .next { s with
        blk := ⟨sLayer s.rom.inv (pLayer (pLayer (s.blk.value ^^^ s.key.value.extractLsb' 16 64))), true⟩
        key := ⟨ksInverse s.rom r s.key.value, true⟩
        tsel := .inv, cmdl := ⟨encode (.rndd r), true⟩, sub := 4, err := .ok, done := true }

/-! ### ENC and DEC (files 44 and 45) -/

/-- R142: the micro-steps of ENC, each with all it changes. -/
def Obligations.EncSequencerMicroSteps : Prop :=
  ∀ (s : State) (r : Round), s.mfault = none → s.blk.present = true → s.key.present = true →
    (s.phase = .eRnd → s.rc = ⟨r, true⟩ → roundOk r = true →
      (s.sub = 0 → coreStep s = .next { s with
        blk := ⟨s.blk.value ^^^ s.key.value.extractLsb' 16 64, true⟩, sub := 1 }) ∧
      (s.sub = 1 → s.tsel = .fwd → coreStep s = .next { s with
        blk := ⟨sLayer s.rom.fwd s.blk.value, true⟩, sub := 2 }) ∧
      (s.sub = 2 → coreStep s = .next { s with blk := ⟨pLayer s.blk.value, true⟩, sub := 3 }) ∧
      (s.sub = 3 → r.toNat < 31 → coreStep s = .next { s with
        key := ⟨ksForward s.rom r s.key.value, true⟩, rc := ⟨r + 1, true⟩, sub := 0 }) ∧
      (s.sub = 3 → r = 31 → coreStep s = .next { s with
        key := ⟨ksForward s.rom r s.key.value, true⟩, phase := .eFin })) ∧
    (s.phase = .eFin → coreStep s = .next { s with
      blk := ⟨s.blk.value ^^^ s.key.value.extractLsb' 16 64, true⟩, phase := .idle, busy := false, done := true })

/-- R162: the micro-steps of DEC, each with all it changes. -/
def Obligations.DecSequencerMicroSteps : Prop :=
  ∀ (s : State) (r : Round), s.mfault = none → s.blk.present = true → s.key.present = true →
    (s.phase = .dFf → s.rc = ⟨r, true⟩ → roundOk r = true →
      (r.toNat < 31 → coreStep s = .next { s with
        key := ⟨ksForward s.rom r s.key.value, true⟩, rc := ⟨r + 1, true⟩ }) ∧
      (r = 31 → coreStep s = .next { s with
        key := ⟨ksForward s.rom r s.key.value, true⟩, tsel := .inv, phase := .dRnd, rc := ⟨31, true⟩, sub := 0 })) ∧
    (s.phase = .dRnd → s.rc = ⟨r, true⟩ → roundOk r = true →
      (s.sub = 0 → coreStep s = .next { s with
        blk := ⟨s.blk.value ^^^ s.key.value.extractLsb' 16 64, true⟩, sub := 1 }) ∧
      (s.sub = 1 → coreStep s = .next { s with blk := ⟨pLayer s.blk.value, true⟩, sub := 2 }) ∧
      (s.sub = 2 → coreStep s = .next { s with blk := ⟨pLayer s.blk.value, true⟩, sub := 3 }) ∧
      (s.sub = 3 → s.tsel = .inv → coreStep s = .next { s with
        blk := ⟨sLayer s.rom.inv s.blk.value, true⟩, sub := 4 }) ∧
      (s.sub = 4 → 1 < r.toNat → coreStep s = .next { s with
        key := ⟨ksInverse s.rom r s.key.value, true⟩, rc := ⟨r - 1, true⟩, sub := 0 }) ∧
      (s.sub = 4 → r = 1 → coreStep s = .next { s with
        key := ⟨ksInverse s.rom r s.key.value, true⟩, rc := ⟨0, true⟩, phase := .dFin })) ∧
    (s.phase = .dFin → coreStep s = .next { s with
      blk := ⟨s.blk.value ^^^ s.key.value.extractLsb' 16 64, true⟩, phase := .idle, busy := false, done := true })

/-- R143 and R144, marked as derived in the spec: ENC issued on a ready core ends after 125 micro-steps with BLK and
KEY the pair that the function of R143 gives on the sampled ports, RC = 31 and TSEL = FWD; everything else is as
before the issue. -/
def Obligations.EncComputesEncrypt : Prop :=
  ∀ s : State, s.Ready →
    ∃ t, exec .enc s = .next t ∧
      coreRun 125 t = .next { s with
        blk := ⟨(encryptFn s.rom s.dinBlk s.dinKey).1, true⟩
        key := ⟨(encryptFn s.rom s.dinBlk s.dinKey).2, true⟩
        rc := ⟨31, true⟩, tsel := .fwd, sub := 3, err := .ok, done := true }

/-- R163 and R164, marked as derived in the spec: DEC issued on a ready core with lawful tables ends after 187
micro-steps with BLK the value that the function of R163 gives on the sampled ports, KEY the master key, RC = 0 and
TSEL = INV; everything else is as before. -/
def Obligations.DecComputesDecrypt : Prop :=
  ∀ s : State, s.Ready → lawfulTables s.rom = true →
    (decryptFn s.rom s.dinBlk s.dinKey).2 = s.dinKey ∧
    ∃ t, exec .dec s = .next t ∧
      coreRun 187 t = .next { s with
        blk := ⟨(decryptFn s.rom s.dinBlk s.dinKey).1, true⟩
        key := ⟨s.dinKey, true⟩
        rc := ⟨0, true⟩, tsel := .inv, sub := 4, err := .ok, done := true }

/-- R165: decrypt undoes encrypt and encrypt undoes decrypt, for every key, every block and all lawful tables. -/
def Obligations.DecryptAndEncryptRoundTrip : Prop :=
  ∀ (tables : Tables) (b : Block) (k : Key), lawfulTables tables = true →
    (decryptFn tables (encryptFn tables b k).1 k).1 = b ∧ (encryptFn tables (decryptFn tables b k).1 k).1 = b

/-- R125, marked as derived in the spec: ENC ends with KEY = K_32, and the round keys mixed are RK_1 .. RK_31 in the
rounds and RK_32 at the end. -/
def Obligations.EncryptUsesTheKeySequence : Prop :=
  ∀ (tables : Tables) (b : Block) (k : Key),
    (encryptFn tables b k).2 = keyState tables k 31 ∧
    (encryptFn tables b k).1 =
      (List.range 31).foldl
        (fun b n => pLayer (sLayer tables.fwd (b ^^^ (keyState tables k n).extractLsb' 16 64))) b ^^^
        (keyState tables k 31).extractLsb' 16 64

/-- ENC issued on a ready core and run through ANY schedule of core turns and host turns without a reset, up to its
last micro-step: the end state of R144 whatever the host drives, reads or issues meanwhile. A command issued
meanwhile is rejected and leaves err = 2. -/
def Obligations.EncResultWhateverTheHostDoes : Prop :=
  ∀ (s : State) (l : List Turn),
    lawfulTables s.rom = true → s.Ready → s.rst = false → s.cmd = 0x000A →
    s.schedule = .issue :: (l ++ [.core]) → (∀ x ∈ l, x.resets = false) → l.count .core = 124 →
      ∃ u : State, run (l.length + 2) s = .next u ∧
        u.blk = ⟨(encryptFn s.rom s.dinBlk s.dinKey).1, true⟩ ∧
        u.key = ⟨keyState s.rom s.dinKey 31, true⟩ ∧
        u.rc = ⟨31, true⟩ ∧ u.tsel = .fwd ∧ u.phase = .idle ∧ u.busy = false ∧ u.done = true ∧
        u.err = (if .issue ∈ l then .busy else .ok) ∧ u.schedule = []

/-- The same for DEC: the end state of R164. -/
def Obligations.DecResultWhateverTheHostDoes : Prop :=
  ∀ (s : State) (l : List Turn),
    lawfulTables s.rom = true → s.Ready → s.rst = false → s.cmd = 0x000B →
    s.schedule = .issue :: (l ++ [.core]) → (∀ x ∈ l, x.resets = false) → l.count .core = 186 →
      ∃ u : State, run (l.length + 2) s = .next u ∧
        u.blk = ⟨(decryptFn s.rom s.dinBlk s.dinKey).1, true⟩ ∧
        u.key = ⟨s.dinKey, true⟩ ∧
        u.rc = ⟨0, true⟩ ∧ u.tsel = .inv ∧ u.phase = .idle ∧ u.busy = false ∧ u.done = true ∧
        u.err = (if .issue ∈ l then .busy else .ok) ∧ u.schedule = []

/-! ### The core's micro-step (10_state.md §5) -/

/-- R36 to R38: the micro-op lists; the core performs one micro-op a step and none while idle; a primitive command's
step performs L(CMDL)[SUB] and then either completes, with err, RC, TSEL, SUB and CMDL as the micro-op left them, or
advances SUB; a micro-op that raises the model fault leaves the state faulted and takes no further step. The E and D
phases, which R37 leaves to R142 and R162, are EncSequencerMicroSteps and DecSequencerMicroSteps; what a faulting step
keeps is MicroStepFrame. -/
def Obligations.PrimitiveMicroStep : Prop :=
  (primOps .ark = some [.ark] ∧ (∀ t, primOps (.sl t) = some [.sub]) ∧ primOps .pl = some [.perm] ∧
    (∀ r, primOps (.ksf r) = some [.ksf r]) ∧ (∀ r, primOps (.ksi r) = some [.ksi r]) ∧
    (∀ r, primOps (.rnde r) = some [.ark, .sub, .perm, .ksf r]) ∧
    (∀ r, primOps (.rndd r) = some [.ark, .perm, .perm, .sub, .ksi r])) ∧
  (∀ s t : State, s.phase = .idle → coreStep s = .next t → t = s) ∧
  (∀ s t : State, s.phase ≠ .idle → s.mfault = none → coreStep s = .next t →
    ∃ m : MicroOp, (m.run s = none ∧ t.mfault ≠ none) ∨ ∃ u, m.run s = some u ∧ t.blk = u.blk ∧ t.key = u.key) ∧
  ∀ (s : State) (c : Instr) (ops : List MicroOp) (m : MicroOp),
    s.mfault = none → s.phase = .prim → c.wf = true → s.cmdl = ⟨encode c, true⟩ → primOps c = some ops →
    ops[s.sub.toNat]? = some m →
      (m.run s = none →
        ∃ t, coreStep s = .next t ∧ t.mfault = some .unloadedRead ∧ ∀ u, coreStep t = .next u → u = t) ∧
      (∀ u, m.run s = some u →
        coreStep s = .next (if s.sub.toNat + 1 = ops.length
          then { u with phase := .idle, busy := false, done := true }
          else { u with sub := s.sub + 1 }))

/-- R39, marked as derived in the spec: every command on a ready core with both registers loaded is accepted, stays
busy for exactly its count of micro-steps, and then has ended; a well-formed command's count is that of R39. -/
def Obligations.EveryCommandEndsAfterItsMicroSteps : Prop :=
  ∀ (s : State) (i : Instr), s.Ready → s.blk.present = true → s.key.present = true → i.wf = true →
    ∃ t, exec i s = .next t ∧
      (∀ n, n < microSteps i → ∃ u, coreRun n t = .next u ∧ u.busy = true ∧ u.done = false) ∧
      ∃ u, coreRun (microSteps i) t = .next u ∧ u.Ended ∧ u.phase = .idle ∧ u.err = .ok ∧ u.mfault = none

/-- R43, R60: from any state of the invariant in which a command runs over loaded registers and no fault stands, the
core's own micro-steps end it, in exactly the steps that remain. -/
def Obligations.BusyCoreEndsItsCommand : Prop :=
  ∀ s : State, s.Inv → s.busy = true → s.mfault = none → s.blk.present = true → s.key.present = true →
    ∃ u, coreRun s.remaining s = .next u ∧ u.Ended ∧ u.err = s.err ∧
      ∀ n, n < s.remaining → ∃ v, coreRun n s = .next v ∧ v.busy = true

/-- R145, marked as derived in the spec: under the invariant nothing in the micro-steps of ENC and DEC can stall or
fault. -/
def Obligations.EncAndDecNeverFault : Prop :=
  ∀ s : State, s.Inv → s.phase.isCipher = true →
    ∃ t, coreStep s = .next t ∧ t.mfault = none ∧ t.blk.present = true ∧ t.key.present = true

/-- What a micro-step leaves alone: err (R38), CMDL (R27), the ports, the ROMs (R29) and the host's turns; and a
primitive's micro-step neither reads nor writes RC (R24) and keeps TSEL (R25). The MODEL'S CHOICE, no rule of the spec:
a step that raises the model fault changes nothing else of the core (log 4) and advances freeCount (log 5). -/
def Obligations.MicroStepFrame : Prop :=
  ∀ s t : State, coreStep s = .next t →
    (t.err = s.err ∧ t.cmdl = s.cmdl ∧ t.rst = s.rst ∧ t.cmd = s.cmd ∧ t.dinBlk = s.dinBlk ∧ t.dinKey = s.dinKey ∧
      t.rom = s.rom ∧ t.schedule = s.schedule) ∧
    (s.phase = .prim → t.rc = s.rc ∧ t.tsel = s.tsel ∧
      ∀ x : Reg 5, coreStep { s with rc := x } = .next { t with rc := x }) ∧
    (s.mfault = none → t.mfault ≠ none → t = { s with mfault := t.mfault, freeCount := s.freeCount + 1 })

/-- Who writes BLK and KEY (R22, R23): LDB, LDK, ENC and DEC at acceptance, the micro-steps of a running command,
and reset; nothing else. -/
def Obligations.OnlyNamedEventsWriteBlkAndKey : Prop :=
  ∀ s t : State, step s = .next t → s.turn.resets = false →
    (t.blk ≠ s.blk →
      (s.turn = .core ∧ s.phase ≠ .idle ∧ s.phase ≠ .dFf) ∨
      (s.turn = .issue ∧ s.busy = false ∧ t.blk = ⟨s.dinBlk, true⟩ ∧
        (decode s.cmd = .ok .ldb ∨ decode s.cmd = .ok .enc ∨ decode s.cmd = .ok .dec))) ∧
    (t.key ≠ s.key →
      (s.turn = .core ∧ s.phase ≠ .idle ∧ s.phase ≠ .eFin ∧ s.phase ≠ .dFin) ∨
      (s.turn = .issue ∧ s.busy = false ∧ t.key = ⟨s.dinKey, true⟩ ∧
        (decode s.cmd = .ok .ldk ∨ decode s.cmd = .ok .enc ∨ decode s.cmd = .ok .dec)))

/-- Who writes the hidden registers: RC only the ENC and DEC sequencers (R24), TSEL only the acceptance of SL, RNDE,
RNDD, ENC and DEC and the end of fast-forward (R25), CMDL only the acceptance of a primitive (R27); and reset. -/
def Obligations.OnlyNamedEventsWriteHiddenRegisters : Prop :=
  ∀ s t : State, step s = .next t → s.turn.resets = false →
    (t.rc ≠ s.rc →
      (s.turn = .core ∧ (s.phase = .eRnd ∨ s.phase = .dFf ∨ s.phase = .dRnd)) ∨
      (s.turn = .issue ∧ s.busy = false ∧ (decode s.cmd = .ok .enc ∨ decode s.cmd = .ok .dec))) ∧
    (t.tsel ≠ s.tsel →
      (s.turn = .core ∧ s.phase = .dFf ∧ s.rc = ⟨31, true⟩ ∧ t.tsel = .inv) ∨
      (s.turn = .issue ∧ s.busy = false ∧ ∃ i, decode s.cmd = .ok i ∧ tableSetBy i = some t.tsel)) ∧
    (t.cmdl ≠ s.cmdl →
      s.turn = .issue ∧ s.busy = false ∧ t.cmdl = ⟨s.cmd, true⟩ ∧ ∃ i, decode s.cmd = .ok i ∧ (primOps i).isSome)

/-- R235: the data ports are read at the issue of LDB, LDK, ENC and DEC and nowhere else: on other data-port values
every other command, and every micro-step, does the same and leaves the ports as they are. -/
def Obligations.InputsSampledOnlyAtLoads : Prop :=
  ∀ (s : State) (b : Block) (k : Key),
    coreStep (s.withInputs b k) = mapNext (·.withInputs b k) (coreStep s) ∧
    (∀ i : Instr, i ≠ .ldb → i ≠ .ldk → i ≠ .enc → i ≠ .dec →
      exec i (s.withInputs b k) = mapNext (·.withInputs b k) (exec i s)) ∧
    exec .ldb (s.withInputs s.dinBlk k) = mapNext (·.withInputs s.dinBlk k) (exec .ldb s) ∧
    exec .ldk (s.withInputs b s.dinKey) = mapNext (·.withInputs b s.dinKey) (exec .ldk s)

/-! ### Turns, outputs and status (10_state.md R20, R28, R42) -/

/-- A listed core turn, and an empty schedule, are a micro-step; the turn of an idle core, and that of a core in a
model fault, pass with nothing changed (the model's interleaving, logs 1, 4 and 16). -/
def Obligations.CoreTurnIsAMicroStep : Prop :=
  ∀ s : State, lawfulTables s.rom = true →
    (s.schedule = [] → step s = coreStep s) ∧
    (∀ rest, s.schedule = .core :: rest → step s = coreStep { s with schedule := rest }) ∧
    (s.Ready → coreStep s = .next s) ∧
    (s.mfault ≠ none → coreStep s = .next s)

/-- The host's driving and reading turns: a driven port takes the value, and reading an output has no side effect
(R42, R57); the core's registers and status stay as they are. The last clause, that releasing rst changes rst alone,
is the model's choice (log 12). -/
def Obligations.HostTurnsLeaveTheCoreAlone : Prop :=
  ∀ (s : State) (rest : List Turn), lawfulTables s.rom = true →
    (∀ w, s.schedule = .driveCmd w :: rest → step s = .next { s with schedule := rest, cmd := w }) ∧
    (∀ b, s.schedule = .driveBlk b :: rest → step s = .next { s with schedule := rest, dinBlk := b }) ∧
    (∀ k, s.schedule = .driveKey k :: rest → step s = .next { s with schedule := rest, dinKey := k }) ∧
    (s.schedule = .readOutputs :: rest → step s = .next { s with schedule := rest }) ∧
    (s.schedule = .releaseRst :: rest → step s = .next { s with schedule := rest, rst := false })

/-- R28: the fields of the status word; err = 3 is never produced; under the invariant bit 0 is 1 exactly while
PHASE ≠ IDLE. -/
def Obligations.StatusWordFields : Prop :=
  ∀ s : State,
    s.status.extractLsb' 0 1 = BitVec.ofBool s.busy ∧ s.status.extractLsb' 1 1 = BitVec.ofBool s.done ∧
    s.status.extractLsb' 2 2 = (match s.err with | .ok => 0 | .illegal => 1 | .busy => 2) ∧
    s.status.extractLsb' 2 2 ≠ 3 ∧
    (s.Inv → (s.status.extractLsb' 0 1 = 1 ↔ s.phase ≠ .idle))

/-- R42: the data outputs equal the registers that hold a value. -/
def Obligations.OutputsEqualLoadedRegisters : Prop :=
  ∀ s : State, (s.blk.present = true → s.doutBlk = s.blk.value) ∧ (s.key.present = true → s.doutKey = s.key.value)

/-- R51, R54, R55: bit n of a block is bit n mod 8 of buffer byte 7 - n div 8, byte j is BLK[63-8j:56-8j], and the
block is the buffer's value in big-endian order, so the port value that carries a buffer has each byte in its place;
`get_bit`, `set_bit` and `xor_with` on the value view. -/
def Obligations.ByteZeroIsMostSignificant : Prop :=
  (∀ (b : Block) (n : Nat), n < 64 → b.getLsbD n = (blockByte b ⟨7 - n / 8, by omega⟩).getLsbD (n % 8)) ∧
  (∀ (b : Block) (j : Fin 8), blockByte b j = b.extractLsb' (56 - 8 * j.val) 8) ∧
  (∀ b : Block, b.toNat = ∑ j : Fin 8, (blockByte b j).toNat * 2 ^ (8 * (7 - j.val))) ∧
  (∀ (bytes : Vector Byte 8) (j : Fin 8), blockByte (blockOfBytes bytes) j = bytes[j]) ∧
  (∀ (w n m : Nat) (v : BitVec w), n < w →
    getBit v n = v.getLsbD n ∧ (setBit v n).getLsbD m = (decide (m = n) || v.getLsbD m)) ∧
  (∀ (a b : Block) (j : Fin 8), blockByte (xorWith a b) j = blockByte a j ^^^ blockByte b j) ∧
  (∀ (w : Nat) (a b : BitVec w), xorWith a b = a ^^^ b)

/-- R52, marked as derived in the spec: the same order for the 10-byte key buffer; its first 8 bytes are the round
key, its byte 5 is KEY[39:32], and the high nibble of its byte 0 is KEY[79:76]. -/
def Obligations.KeyByteZeroIsMostSignificant : Prop :=
  (∀ (k : Key) (n : Nat), n < 80 → k.getLsbD n = (keyByte k ⟨9 - n / 8, by omega⟩).getLsbD (n % 8)) ∧
  (∀ (k : Key) (j : Fin 10), keyByte k j = k.extractLsb' (72 - 8 * j.val) 8) ∧
  (∀ k : Key, k.toNat = ∑ j : Fin 10, (keyByte k j).toNat * 2 ^ (8 * (9 - j.val))) ∧
  (∀ (bytes : Vector Byte 10) (j : Fin 10), keyByte (keyOfBytes bytes) j = bytes[j]) ∧
  (∀ (k : Key) (j : Fin 8), blockByte (roundKey k) j = keyByte k (Fin.castAdd 2 j)) ∧
  (∀ k : Key, roundKey k = k.extractLsb' 16 64 ∧ keyByte k 5 = k.extractLsb' 32 8 ∧
    (keyByte k 0).extractLsb' 4 4 = k.extractLsb' 76 4)

/-! ### Reset and model faults (70_reset_and_hazards.md, 60_exceptions.md R208) -/

/-- R33: the core right after reset. -/
def Obligations.ResetValues : Prop :=
  State.reset.blk.present = false ∧ State.reset.key.present = false ∧ State.reset.rc.present = false ∧
  State.reset.cmdl.present = false ∧ State.reset.tsel = .fwd ∧ State.reset.phase = .idle ∧ State.reset.sub = 0 ∧
  State.reset.busy = false ∧ State.reset.done = false ∧ State.reset.err = .ok ∧ State.reset.mfault = none ∧
  State.reset.status = 0 ∧ lawfulTables State.reset.rom = true

/-- R230 to R232, with the values of R33: reset puts them in place at once, from any state, also when a command is
issued at the same instant; a running command is abandoned, BLK and KEY become absent, a model fault is cleared, the
ROMs stay, and the core takes no step but waits; reset alone clears a model fault; while rst is held an issue
changes nothing. -/
def Obligations.ResetWinsFromAnyState : Prop :=
  (∀ (s : State) (rest : List Turn) (turn : Turn),
    lawfulTables s.rom = true → turn = .assertRst ∨ turn = .assertRstAndIssue → s.schedule = turn :: rest →
      ∃ t, step s = .next t ∧
        t.blk.present = false ∧ t.key.present = false ∧ t.rc.present = false ∧ t.cmdl.present = false ∧
        t.tsel = .fwd ∧ t.phase = .idle ∧ t.sub = 0 ∧ t.busy = false ∧ t.done = false ∧ t.err = .ok ∧
        t.mfault = none ∧ t.rom = s.rom ∧ t.schedule = rest ∧ ∀ u, coreStep t = .next u → u = t) ∧
  (∀ s t : State, step s = .next t → s.mfault ≠ none → t.mfault = none → s.turn.resets = true) ∧
  (∀ (s : State) (rest : List Turn),
    lawfulTables s.rom = true → s.rst = true → s.schedule = .issue :: rest →
      step s = .next { s with schedule := rest })

/-- The MODEL'S CHOICE, no rule of the spec (logs 12 and 20): a reset turn leaves rst high, and it leaves the input
ports as the host drives them. -/
def Obligations.ResetKeepsTheInputPorts : Prop :=
  ∀ s t : State, s.turn.resets = true → step s = .next t →
    t.rst = true ∧ t.cmd = s.cmd ∧ t.dinBlk = s.dinBlk ∧ t.dinKey = s.dinKey

/-- R208: a micro-op raises UnloadedRead exactly when it reads an absent register, and no core step raises a fault
otherwise; the faulted state takes no further core step, is never the end of a run, and keeps its fault until a
reset, which clears it. What else holds in the faulted state is no part of R208: MicroStepFrame has the model's choice.
-/
def Obligations.UnloadedReadFaultsUntilReset : Prop :=
  (∀ s : State,
    (MicroOp.ark.run s = none ↔ s.blk.present = false ∨ s.key.present = false) ∧
    (MicroOp.sub.run s = none ↔ s.blk.present = false) ∧
    (MicroOp.perm.run s = none ↔ s.blk.present = false) ∧
    (∀ r, MicroOp.run (.ksf r) s = none ↔ s.key.present = false) ∧
    (∀ r, MicroOp.run (.ksi r) s = none ↔ s.key.present = false)) ∧
  (∀ (m : MicroOp) (s : State) (move : State → State), m.run s = none →
    ∃ t, perform m s move = .next t ∧ t.mfault = some .unloadedRead) ∧
  (∀ s t : State, coreStep s = .next t → s.mfault = none → t.mfault ≠ none →
    (s.blk.present = false ∨ s.key.present = false) ∧ t.mfault = some .unloadedRead) ∧
  (∀ s t : State, s.mfault ≠ none → coreStep s = .next t → t = s) ∧
  (∀ s : State, s.Inv → s.mfault ≠ none → ¬s.Ended) ∧
  (∀ s t : State, step s = .next t → s.mfault ≠ none →
    t.mfault = if s.turn.resets then none else s.mfault)

/-- R233, marked as derived in the spec: a primitive that reads a register that nothing has loaded is accepted, and
then its first micro-step raises the model fault. What that step keeps is the model's choice (log 4), in
MicroStepFrame. -/
def Obligations.PrimitiveBeforeLoadFaults : Prop :=
  ∀ (s : State) (i : Instr), s.Ready → i.wf = true → (primOps i).isSome →
    (s.blk.present = false ∧ i ∉ roundsUp.map Instr.ksf ++ roundsUp.map Instr.ksi) ∨
      (s.key.present = false ∧ (∀ t, i ≠ .sl t) ∧ i ≠ .pl) →
    ∃ t u, exec i s = .next t ∧ t.status = 0b0001 ∧ coreStep t = .next u ∧ u.mfault = some .unloadedRead

/-! ### The machine as a whole -/

/-- The invariant holds right after reset. -/
def Obligations.InvariantHoldsAtReset : Prop := State.reset.Inv

/-- Every step keeps the invariant, from every state that has it. -/
def Obligations.StepKeepsInvariant : Prop :=
  ∀ s t : State, s.Inv → step s = .next t → t.Inv

/-- Under the invariant and lawful tables every step answers a next state: no command and no turn stops the machine,
and the model's own fault of log 11 is unreachable. -/
def Obligations.StepNeverStops : Prop :=
  ∀ s : State, s.Inv → lawfulTables s.rom = true → ∃ t, step s = .next t

/-- R102, R29: tables that break the laws are refused on every step and by nothing else, and no step writes a ROM.
-/
def Obligations.TablesAreCheckedAndConstant : Prop :=
  (∀ (s : State) (r : Refusal), step s = .refused r ↔ lawfulTables s.rom = false ∧ r = .unlawfulTables) ∧
  (∀ s t : State, step s = .next t → t.rom = s.rom)
end

