-- ==== Sys2Proof/Laws/Bits.lean ====
section
/-! SUPPORT. The datapath operations lane by lane and bit by bit: one lemma each, which later proofs cite instead of
unfolding a fold or a shift. -/

namespace Sys2Proof.Machine

/-! ### The substitution layer -/

theorem lane_setLane (b : Block) (x : Nibble) (i j : Nat) (hi : i < 16) (hj : j < 16) :
    lane (setLane b i x) j = if j = i then x else lane b j := by
  split
  · subst j
    ext k hk
    simp [lane, setLane]
    have h2 : 4 * i + k < 64 := by omega
    have h3 : ¬ (4 * i + k < 4 * i) := by omega
    have h5 : (15#64).getLsbD k = true := by interval_cases k <;> rfl
    have h6 : k < 64 := by omega
    simp [h2, hk, h5, h6]
  · rename_i hne
    ext k hk
    simp [lane, setLane]
    have h2 : 4 * j + k < 64 := by omega
    simp only [h2, decide_true, Bool.true_and]
    have h5 : j < i ∨ i < j := by omega
    rcases h5 with h5 | h5
    · have h6 : 4 * j + k < 4 * i := by omega
      simp [h6]
    · have h6 : ¬ 4 * j + k < 4 * i := by omega
      have h7 : 4 ≤ 4 * j + k - 4 * i := by omega
      have h8 : x.getLsbD (4 * j + k - 4 * i) = false := BitVec.getLsbD_of_ge _ _ h7
      have h9 : (15#64).getLsbD (4 * j + k - 4 * i) = false := by
        have : ∀ d : Nat, d < 64 → 4 ≤ d → (15#64).getLsbD d = false := by decide +kernel
        exact this _ (by omega) h7
      simp [h6, h8, h9]

/-- A block is its 16 lanes. -/
theorem lane_ext (a b : Block) (h : ∀ i, i < 16 → lane a i = lane b i) : a = b := by
  ext k hk
  have := congrArg (fun x => x.getLsbD (k % 4)) (h (k / 4) (by omega))
  simp only [lane, BitVec.getLsbD_extractLsb'] at this
  rw [show 4 * (k / 4) + k % 4 = k by omega] at this
  simpa [show k % 4 < 4 by omega, hk] using this

/-- What the layer does to a lane (R104). -/
theorem lane_sLayer (rom : Vector Nibble 16) (b : Block) (i : Nat) (hi : i < 16) :
    lane (sLayer rom b) i = lookup rom (lane b i) := by
  unfold sLayer
  have key : ∀ n, n ≤ 16 → ∀ j, j < 16 →
      lane ((List.range n).foldl (fun out i => setLane out i (lookup rom (lane b i))) b) j =
        if j < n then lookup rom (lane b j) else lane b j := by
    intro n
    induction n with
    | zero => simp
    | succ n ih =>
      intro hn j hj
      rw [List.range_succ, List.foldl_append]
      simp only [List.foldl_cons, List.foldl_nil]
      rw [lane_setLane _ _ _ _ (by omega) hj, ih (by omega) j hj]
      by_cases h : j = n
      · subst h; simp
      · simp only [h, if_false]
        have : j < n + 1 ↔ j < n := by omega
        simp [this]
  rw [key 16 (le_refl _) i hi]
  simp [hi]

theorem mem_allNibbles (v : Nibble) : v ∈ allNibbles := by revert v; decide

/-- A nibble table substitutes and its inverse restores, for lawful tables (R102). -/
theorem lookup_inverse {tables : Tables} (h : lawfulTables tables = true) (v : Nibble) :
    lookup tables.inv (lookup tables.fwd v) = v ∧ lookup tables.fwd (lookup tables.inv v) = v := by
  simp only [lawfulTables, List.all_eq_true, Bool.and_eq_true, beq_iff_eq] at h
  exact h v (mem_allNibbles v)

/-! ### The permutation layer -/

theorem permIndex_lt {p : Nat} (hp : p < 64) : permIndex p < 64 := by unfold permIndex; omega

theorem permIndex_inj {p q : Nat} (hp : p < 64) (hq : q < 64) (h : permIndex p = permIndex q) : p = q := by
  unfold permIndex at h; omega

/-- Where the layer moves a bit (R112). -/
theorem getLsbD_pLayer (b : Block) (p : Nat) (hp : p < 64) :
    (pLayer b).getLsbD (permIndex p) = b.getLsbD p := by
  unfold pLayer
  have key : ∀ n, n ≤ 64 → ∀ q, q < 64 →
      ((List.range n).foldl (fun out p => if getBit b p then setBit out (permIndex p) else out) 0#64).getLsbD
          (permIndex q) =
        (decide (q < n) && b.getLsbD q) := by
    intro n
    induction n with
    | zero => simp
    | succ n ih =>
      intro hn q hq
      rw [List.range_succ, List.foldl_append]
      simp only [List.foldl_cons, List.foldl_nil]
      have hinj : permIndex q = permIndex n → q = n := by unfold permIndex; omega
      have hlt : permIndex q < 64 := by unfold permIndex; omega
      have ih' := ih (by omega) q hq
      have hb1 : ∀ k, BitVec.getLsbD (1#64) k = decide (k = 0) := by intro k; simp [BitVec.getLsbD_one]
      split
      · rename_i hg
        generalize List.foldl _ _ _ = X at ih' ⊢
        simp only [setBit, BitVec.getLsbD_or, ih', BitVec.getLsbD_shiftLeft, hlt, decide_true, Bool.true_and]
        rw [hb1]
        by_cases h : q = n
        · subst h; simp [getBit] at hg; simp [hg]
        · have hne : permIndex q ≠ permIndex n := fun e => h (hinj e)
          have : q < n + 1 ↔ q < n := by omega
          simp only [this]
          by_cases h3 : permIndex q < permIndex n
          · simp [h3]
          · have : permIndex q - permIndex n ≠ 0 := by omega
            simp [this]
      · rename_i hg
        rw [ih']
        by_cases h : q = n
        · subst h; simp [getBit] at hg; simp [hg]
        · have : q < n + 1 ↔ q < n := by omega
          simp [this]
  rw [key 64 (le_refl _) p hp]; simp [hp]

/-! ### The key schedule -/

theorem getLsbD_subHighNibble (rom : Vector Nibble 16) (k : Key) (n : Nat) (hn : n < 80) :
    (subHighNibble rom k).getLsbD n =
      if n < 76 then k.getLsbD n else (lookup rom (k.extractLsb' 76 4)).getLsbD (n - 76) := by
  unfold subHighNibble
  erw [BitVec.getLsbD_append]
  split <;> simp_all

theorem extract_subHighNibble (rom : Vector Nibble 16) (k : Key) :
    (subHighNibble rom k).extractLsb' 76 4 = lookup rom (k.extractLsb' 76 4) := by
  ext i hi
  simp only [BitVec.getElem_extractLsb']
  rw [getLsbD_subHighNibble _ _ _ (by omega), if_neg (by omega)]
  simp [hi]

theorem getLsbD_rotl80 (k : Key) (m n : Nat) (hm : m < 80) (hn : n < 80) :
    (rotl80 k m).getLsbD ((n + m) % 80) = k.getLsbD n := by
  unfold rotl80
  rw [BitVec.getLsbD_rotateLeft]
  have hm' : m % 80 = m := Nat.mod_eq_of_lt hm
  rw [hm']
  by_cases h : n + m < 80
  · rw [Nat.mod_eq_of_lt h]
    have : ¬ n + m < m := by omega
    simp [this, h]
  · have : (n + m) % 80 = n + m - 80 := by omega
    rw [this]
    have h2 : n + m - 80 < m := by omega
    simp [h2]
    congr 1
    omega

theorem getLsbD_xorByte5 (r : Round) (k : Key) (n : Nat) (hn : n < 80) :
    (xorByte5 r k).getLsbD n = ((k.getLsbD n) ^^ (decide (34 ≤ n) && r.getLsbD (n - 34))) := by
  unfold xorByte5
  rw [BitVec.getLsbD_xor]
  congr 1
  have key : ∀ (r : Round), ∀ m : Nat, m < 80 →
      ((roundByte r).zeroExtend 80 <<< 32).getLsbD m = (decide (34 ≤ m) && r.getLsbD (m - 34)) := by decide +kernel
  exact key r n hn

theorem xorByte5_xorByte5 (r : Round) (k : Key) : xorByte5 r (xorByte5 r k) = k := by
  unfold xorByte5; rw [BitVec.xor_assoc]; simp

/-- Two rotations that add up to 80 undo each other (61 and 19, D17). -/
theorem rotl80_rotl80 (k : Key) {a b : Nat} (h : a + b = 80) (ha : a < 80) (hb : b < 80) :
    rotl80 (rotl80 k a) b = k := by
  apply BitVec.eq_of_getLsbD_eq
  intro n hn
  have h1 := getLsbD_rotl80 (rotl80 k a) b ((n + a) % 80) hb (Nat.mod_lt _ (by norm_num))
  rw [getLsbD_rotl80 _ _ _ ha hn] at h1
  rw [show ((n + a) % 80 + b) % 80 = n by omega] at h1
  exact h1

theorem subHighNibble_undo {rom rom' : Vector Nibble 16} (h : ∀ v, lookup rom' (lookup rom v) = v) (k : Key) :
    subHighNibble rom' (subHighNibble rom k) = k := by
  apply BitVec.eq_of_getLsbD_eq
  intro n hn
  rw [getLsbD_subHighNibble _ _ _ hn, extract_subHighNibble, h]
  split
  · rw [getLsbD_subHighNibble _ _ _ hn, if_pos ‹_›]
  · simp
    rw [show 76 + (n - 76) = n by omega]
    simp [show n - 76 < 4 by omega]

/-! ### The key-mix -/

theorem keyMix_keyMix (k : Key) (b : Block) : keyMix k (keyMix k b) = b := by
  unfold keyMix xorWith; rw [BitVec.xor_assoc]; simp

end Sys2Proof.Machine
end

