-- ==== Sys2Proof/Laws/State.lean ====
section
/-! SUPPORT. What each named update of State does to each field: one lemma per field per update, true by unfolding,
so that no later proof unfolds a record update. -/

namespace Sys2Proof.Machine

@[simp] theorem Reg.get?_loaded {w : Nat} (v : BitVec w) : (Reg.loaded v).get? = some v := rfl
@[simp] theorem Reg.get?_absent (w : Nat) : (Reg.absent w).get? = none := rfl
@[simp] theorem Reg.loaded_value {w : Nat} (v : BitVec w) : (Reg.loaded v).value = v := rfl
@[simp] theorem Reg.loaded_present {w : Nat} (v : BitVec w) : (Reg.loaded v).present = true := rfl
@[simp] theorem Reg.absent_present (w : Nat) : (Reg.absent w).present = false := rfl

theorem Reg.get?_of_present {w : Nat} {r : Reg w} (h : r.present = true) : r.get? = some r.value := by
  simp [Reg.get?, h]

theorem Reg.get?_eq_none {w : Nat} {r : Reg w} : r.get? = none ↔ r.present = false := by
  simp [Reg.get?]

theorem Reg.get?_eq_some {w : Nat} {r : Reg w} {v : BitVec w} : r.get? = some v ↔ r = Reg.loaded v := by
  obtain ⟨x, p⟩ := r
  cases p <;> simp [Reg.get?, Reg.loaded]

variable (s : State)

/-! `raiseErr_busy` -/

@[simp] theorem State.raiseErr_busy_blk : (s.raiseErr .busy).blk = s.blk := rfl
@[simp] theorem State.raiseErr_busy_key : (s.raiseErr .busy).key = s.key := rfl
@[simp] theorem State.raiseErr_busy_rc : (s.raiseErr .busy).rc = s.rc := rfl
@[simp] theorem State.raiseErr_busy_tsel : (s.raiseErr .busy).tsel = s.tsel := rfl
@[simp] theorem State.raiseErr_busy_phase : (s.raiseErr .busy).phase = s.phase := rfl
@[simp] theorem State.raiseErr_busy_sub : (s.raiseErr .busy).sub = s.sub := rfl
@[simp] theorem State.raiseErr_busy_cmdl : (s.raiseErr .busy).cmdl = s.cmdl := rfl
@[simp] theorem State.raiseErr_busy_busy : (s.raiseErr .busy).busy = s.busy := rfl
@[simp] theorem State.raiseErr_busy_done : (s.raiseErr .busy).done = s.done := rfl
@[simp] theorem State.raiseErr_busy_err : (s.raiseErr .busy).err = .busy := rfl
@[simp] theorem State.raiseErr_busy_mfault : (s.raiseErr .busy).mfault = s.mfault := rfl
@[simp] theorem State.raiseErr_busy_rst : (s.raiseErr .busy).rst = s.rst := rfl
@[simp] theorem State.raiseErr_busy_cmd : (s.raiseErr .busy).cmd = s.cmd := rfl
@[simp] theorem State.raiseErr_busy_dinBlk : (s.raiseErr .busy).dinBlk = s.dinBlk := rfl
@[simp] theorem State.raiseErr_busy_dinKey : (s.raiseErr .busy).dinKey = s.dinKey := rfl
@[simp] theorem State.raiseErr_busy_rom : (s.raiseErr .busy).rom = s.rom := rfl
@[simp] theorem State.raiseErr_busy_schedule : (s.raiseErr .busy).schedule = s.schedule := rfl
@[simp] theorem State.raiseErr_busy_freeCount : (s.raiseErr .busy).freeCount = s.freeCount := rfl

/-! `raiseErr_illegal` -/

@[simp] theorem State.raiseErr_illegal_blk : (s.raiseErr .illegal).blk = s.blk := rfl
@[simp] theorem State.raiseErr_illegal_key : (s.raiseErr .illegal).key = s.key := rfl
@[simp] theorem State.raiseErr_illegal_rc : (s.raiseErr .illegal).rc = s.rc := rfl
@[simp] theorem State.raiseErr_illegal_tsel : (s.raiseErr .illegal).tsel = s.tsel := rfl
@[simp] theorem State.raiseErr_illegal_phase : (s.raiseErr .illegal).phase = s.phase := rfl
@[simp] theorem State.raiseErr_illegal_sub : (s.raiseErr .illegal).sub = s.sub := rfl
@[simp] theorem State.raiseErr_illegal_cmdl : (s.raiseErr .illegal).cmdl = s.cmdl := rfl
@[simp] theorem State.raiseErr_illegal_busy : (s.raiseErr .illegal).busy = s.busy := rfl
@[simp] theorem State.raiseErr_illegal_done : (s.raiseErr .illegal).done = true := rfl
@[simp] theorem State.raiseErr_illegal_err : (s.raiseErr .illegal).err = .illegal := rfl
@[simp] theorem State.raiseErr_illegal_mfault : (s.raiseErr .illegal).mfault = s.mfault := rfl
@[simp] theorem State.raiseErr_illegal_rst : (s.raiseErr .illegal).rst = s.rst := rfl
@[simp] theorem State.raiseErr_illegal_cmd : (s.raiseErr .illegal).cmd = s.cmd := rfl
@[simp] theorem State.raiseErr_illegal_dinBlk : (s.raiseErr .illegal).dinBlk = s.dinBlk := rfl
@[simp] theorem State.raiseErr_illegal_dinKey : (s.raiseErr .illegal).dinKey = s.dinKey := rfl
@[simp] theorem State.raiseErr_illegal_rom : (s.raiseErr .illegal).rom = s.rom := rfl
@[simp] theorem State.raiseErr_illegal_schedule : (s.raiseErr .illegal).schedule = s.schedule := rfl
@[simp] theorem State.raiseErr_illegal_freeCount : (s.raiseErr .illegal).freeCount = s.freeCount := rfl

/-! `clearStatus` -/

@[simp] theorem State.clearStatus_blk : s.clearStatus.blk = s.blk := rfl
@[simp] theorem State.clearStatus_key : s.clearStatus.key = s.key := rfl
@[simp] theorem State.clearStatus_rc : s.clearStatus.rc = s.rc := rfl
@[simp] theorem State.clearStatus_tsel : s.clearStatus.tsel = s.tsel := rfl
@[simp] theorem State.clearStatus_phase : s.clearStatus.phase = s.phase := rfl
@[simp] theorem State.clearStatus_sub : s.clearStatus.sub = s.sub := rfl
@[simp] theorem State.clearStatus_cmdl : s.clearStatus.cmdl = s.cmdl := rfl
@[simp] theorem State.clearStatus_busy : s.clearStatus.busy = s.busy := rfl
@[simp] theorem State.clearStatus_done : s.clearStatus.done = false := rfl
@[simp] theorem State.clearStatus_err : s.clearStatus.err = .ok := rfl
@[simp] theorem State.clearStatus_mfault : s.clearStatus.mfault = s.mfault := rfl
@[simp] theorem State.clearStatus_rst : s.clearStatus.rst = s.rst := rfl
@[simp] theorem State.clearStatus_cmd : s.clearStatus.cmd = s.cmd := rfl
@[simp] theorem State.clearStatus_dinBlk : s.clearStatus.dinBlk = s.dinBlk := rfl
@[simp] theorem State.clearStatus_dinKey : s.clearStatus.dinKey = s.dinKey := rfl
@[simp] theorem State.clearStatus_rom : s.clearStatus.rom = s.rom := rfl
@[simp] theorem State.clearStatus_schedule : s.clearStatus.schedule = s.schedule := rfl
@[simp] theorem State.clearStatus_freeCount : s.clearStatus.freeCount = s.freeCount := rfl

/-! `finishAtOnce` -/

@[simp] theorem State.finishAtOnce_blk : s.finishAtOnce.blk = s.blk := rfl
@[simp] theorem State.finishAtOnce_key : s.finishAtOnce.key = s.key := rfl
@[simp] theorem State.finishAtOnce_rc : s.finishAtOnce.rc = s.rc := rfl
@[simp] theorem State.finishAtOnce_tsel : s.finishAtOnce.tsel = s.tsel := rfl
@[simp] theorem State.finishAtOnce_phase : s.finishAtOnce.phase = s.phase := rfl
@[simp] theorem State.finishAtOnce_sub : s.finishAtOnce.sub = s.sub := rfl
@[simp] theorem State.finishAtOnce_cmdl : s.finishAtOnce.cmdl = s.cmdl := rfl
@[simp] theorem State.finishAtOnce_busy : s.finishAtOnce.busy = s.busy := rfl
@[simp] theorem State.finishAtOnce_done : s.finishAtOnce.done = true := rfl
@[simp] theorem State.finishAtOnce_err : s.finishAtOnce.err = s.err := rfl
@[simp] theorem State.finishAtOnce_mfault : s.finishAtOnce.mfault = s.mfault := rfl
@[simp] theorem State.finishAtOnce_rst : s.finishAtOnce.rst = s.rst := rfl
@[simp] theorem State.finishAtOnce_cmd : s.finishAtOnce.cmd = s.cmd := rfl
@[simp] theorem State.finishAtOnce_dinBlk : s.finishAtOnce.dinBlk = s.dinBlk := rfl
@[simp] theorem State.finishAtOnce_dinKey : s.finishAtOnce.dinKey = s.dinKey := rfl
@[simp] theorem State.finishAtOnce_rom : s.finishAtOnce.rom = s.rom := rfl
@[simp] theorem State.finishAtOnce_schedule : s.finishAtOnce.schedule = s.schedule := rfl
@[simp] theorem State.finishAtOnce_freeCount : s.finishAtOnce.freeCount = s.freeCount := rfl

/-! `complete` -/

@[simp] theorem State.complete_blk : s.complete.blk = s.blk := rfl
@[simp] theorem State.complete_key : s.complete.key = s.key := rfl
@[simp] theorem State.complete_rc : s.complete.rc = s.rc := rfl
@[simp] theorem State.complete_tsel : s.complete.tsel = s.tsel := rfl
@[simp] theorem State.complete_phase : s.complete.phase = .idle := rfl
@[simp] theorem State.complete_sub : s.complete.sub = s.sub := rfl
@[simp] theorem State.complete_cmdl : s.complete.cmdl = s.cmdl := rfl
@[simp] theorem State.complete_busy : s.complete.busy = false := rfl
@[simp] theorem State.complete_done : s.complete.done = true := rfl
@[simp] theorem State.complete_err : s.complete.err = s.err := rfl
@[simp] theorem State.complete_mfault : s.complete.mfault = s.mfault := rfl
@[simp] theorem State.complete_rst : s.complete.rst = s.rst := rfl
@[simp] theorem State.complete_cmd : s.complete.cmd = s.cmd := rfl
@[simp] theorem State.complete_dinBlk : s.complete.dinBlk = s.dinBlk := rfl
@[simp] theorem State.complete_dinKey : s.complete.dinKey = s.dinKey := rfl
@[simp] theorem State.complete_rom : s.complete.rom = s.rom := rfl
@[simp] theorem State.complete_schedule : s.complete.schedule = s.schedule := rfl
@[simp] theorem State.complete_freeCount : s.complete.freeCount = s.freeCount := rfl

/-! `startPrim` -/

@[simp] theorem State.startPrim_blk (c : Instr) : (s.startPrim c).blk = s.blk := rfl
@[simp] theorem State.startPrim_key (c : Instr) : (s.startPrim c).key = s.key := rfl
@[simp] theorem State.startPrim_rc (c : Instr) : (s.startPrim c).rc = s.rc := rfl
@[simp] theorem State.startPrim_tsel (c : Instr) : (s.startPrim c).tsel = s.tsel := rfl
@[simp] theorem State.startPrim_phase (c : Instr) : (s.startPrim c).phase = .prim := rfl
@[simp] theorem State.startPrim_sub (c : Instr) : (s.startPrim c).sub = 0 := rfl
@[simp] theorem State.startPrim_cmdl (c : Instr) : (s.startPrim c).cmdl = Reg.loaded (encode c) := rfl
@[simp] theorem State.startPrim_busy (c : Instr) : (s.startPrim c).busy = true := rfl
@[simp] theorem State.startPrim_done (c : Instr) : (s.startPrim c).done = s.done := rfl
@[simp] theorem State.startPrim_err (c : Instr) : (s.startPrim c).err = s.err := rfl
@[simp] theorem State.startPrim_mfault (c : Instr) : (s.startPrim c).mfault = s.mfault := rfl
@[simp] theorem State.startPrim_rst (c : Instr) : (s.startPrim c).rst = s.rst := rfl
@[simp] theorem State.startPrim_cmd (c : Instr) : (s.startPrim c).cmd = s.cmd := rfl
@[simp] theorem State.startPrim_dinBlk (c : Instr) : (s.startPrim c).dinBlk = s.dinBlk := rfl
@[simp] theorem State.startPrim_dinKey (c : Instr) : (s.startPrim c).dinKey = s.dinKey := rfl
@[simp] theorem State.startPrim_rom (c : Instr) : (s.startPrim c).rom = s.rom := rfl
@[simp] theorem State.startPrim_schedule (c : Instr) : (s.startPrim c).schedule = s.schedule := rfl
@[simp] theorem State.startPrim_freeCount (c : Instr) : (s.startPrim c).freeCount = s.freeCount := rfl

/-! `setTsel` -/

@[simp] theorem State.setTsel_blk (t : Table) : (s.setTsel t).blk = s.blk := rfl
@[simp] theorem State.setTsel_key (t : Table) : (s.setTsel t).key = s.key := rfl
@[simp] theorem State.setTsel_rc (t : Table) : (s.setTsel t).rc = s.rc := rfl
@[simp] theorem State.setTsel_tsel (t : Table) : (s.setTsel t).tsel = t := rfl
@[simp] theorem State.setTsel_phase (t : Table) : (s.setTsel t).phase = s.phase := rfl
@[simp] theorem State.setTsel_sub (t : Table) : (s.setTsel t).sub = s.sub := rfl
@[simp] theorem State.setTsel_cmdl (t : Table) : (s.setTsel t).cmdl = s.cmdl := rfl
@[simp] theorem State.setTsel_busy (t : Table) : (s.setTsel t).busy = s.busy := rfl
@[simp] theorem State.setTsel_done (t : Table) : (s.setTsel t).done = s.done := rfl
@[simp] theorem State.setTsel_err (t : Table) : (s.setTsel t).err = s.err := rfl
@[simp] theorem State.setTsel_mfault (t : Table) : (s.setTsel t).mfault = s.mfault := rfl
@[simp] theorem State.setTsel_rst (t : Table) : (s.setTsel t).rst = s.rst := rfl
@[simp] theorem State.setTsel_cmd (t : Table) : (s.setTsel t).cmd = s.cmd := rfl
@[simp] theorem State.setTsel_dinBlk (t : Table) : (s.setTsel t).dinBlk = s.dinBlk := rfl
@[simp] theorem State.setTsel_dinKey (t : Table) : (s.setTsel t).dinKey = s.dinKey := rfl
@[simp] theorem State.setTsel_rom (t : Table) : (s.setTsel t).rom = s.rom := rfl
@[simp] theorem State.setTsel_schedule (t : Table) : (s.setTsel t).schedule = s.schedule := rfl
@[simp] theorem State.setTsel_freeCount (t : Table) : (s.setTsel t).freeCount = s.freeCount := rfl

/-! `loadBlk` -/

@[simp] theorem State.loadBlk_blk : s.loadBlk.blk = Reg.loaded s.dinBlk := rfl
@[simp] theorem State.loadBlk_key : s.loadBlk.key = s.key := rfl
@[simp] theorem State.loadBlk_rc : s.loadBlk.rc = s.rc := rfl
@[simp] theorem State.loadBlk_tsel : s.loadBlk.tsel = s.tsel := rfl
@[simp] theorem State.loadBlk_phase : s.loadBlk.phase = s.phase := rfl
@[simp] theorem State.loadBlk_sub : s.loadBlk.sub = s.sub := rfl
@[simp] theorem State.loadBlk_cmdl : s.loadBlk.cmdl = s.cmdl := rfl
@[simp] theorem State.loadBlk_busy : s.loadBlk.busy = s.busy := rfl
@[simp] theorem State.loadBlk_done : s.loadBlk.done = s.done := rfl
@[simp] theorem State.loadBlk_err : s.loadBlk.err = s.err := rfl
@[simp] theorem State.loadBlk_mfault : s.loadBlk.mfault = s.mfault := rfl
@[simp] theorem State.loadBlk_rst : s.loadBlk.rst = s.rst := rfl
@[simp] theorem State.loadBlk_cmd : s.loadBlk.cmd = s.cmd := rfl
@[simp] theorem State.loadBlk_dinBlk : s.loadBlk.dinBlk = s.dinBlk := rfl
@[simp] theorem State.loadBlk_dinKey : s.loadBlk.dinKey = s.dinKey := rfl
@[simp] theorem State.loadBlk_rom : s.loadBlk.rom = s.rom := rfl
@[simp] theorem State.loadBlk_schedule : s.loadBlk.schedule = s.schedule := rfl
@[simp] theorem State.loadBlk_freeCount : s.loadBlk.freeCount = s.freeCount := rfl

/-! `loadKey` -/

@[simp] theorem State.loadKey_blk : s.loadKey.blk = s.blk := rfl
@[simp] theorem State.loadKey_key : s.loadKey.key = Reg.loaded s.dinKey := rfl
@[simp] theorem State.loadKey_rc : s.loadKey.rc = s.rc := rfl
@[simp] theorem State.loadKey_tsel : s.loadKey.tsel = s.tsel := rfl
@[simp] theorem State.loadKey_phase : s.loadKey.phase = s.phase := rfl
@[simp] theorem State.loadKey_sub : s.loadKey.sub = s.sub := rfl
@[simp] theorem State.loadKey_cmdl : s.loadKey.cmdl = s.cmdl := rfl
@[simp] theorem State.loadKey_busy : s.loadKey.busy = s.busy := rfl
@[simp] theorem State.loadKey_done : s.loadKey.done = s.done := rfl
@[simp] theorem State.loadKey_err : s.loadKey.err = s.err := rfl
@[simp] theorem State.loadKey_mfault : s.loadKey.mfault = s.mfault := rfl
@[simp] theorem State.loadKey_rst : s.loadKey.rst = s.rst := rfl
@[simp] theorem State.loadKey_cmd : s.loadKey.cmd = s.cmd := rfl
@[simp] theorem State.loadKey_dinBlk : s.loadKey.dinBlk = s.dinBlk := rfl
@[simp] theorem State.loadKey_dinKey : s.loadKey.dinKey = s.dinKey := rfl
@[simp] theorem State.loadKey_rom : s.loadKey.rom = s.rom := rfl
@[simp] theorem State.loadKey_schedule : s.loadKey.schedule = s.schedule := rfl
@[simp] theorem State.loadKey_freeCount : s.loadKey.freeCount = s.freeCount := rfl

/-! `startSequencer` -/

@[simp] theorem State.startSequencer_blk (p : Phase) : (s.startSequencer p).blk = s.blk := rfl
@[simp] theorem State.startSequencer_key (p : Phase) : (s.startSequencer p).key = s.key := rfl
@[simp] theorem State.startSequencer_rc (p : Phase) : (s.startSequencer p).rc = Reg.loaded 1 := rfl
@[simp] theorem State.startSequencer_tsel (p : Phase) : (s.startSequencer p).tsel = s.tsel := rfl
@[simp] theorem State.startSequencer_phase (p : Phase) : (s.startSequencer p).phase = p := rfl
@[simp] theorem State.startSequencer_sub (p : Phase) : (s.startSequencer p).sub = 0 := rfl
@[simp] theorem State.startSequencer_cmdl (p : Phase) : (s.startSequencer p).cmdl = s.cmdl := rfl
@[simp] theorem State.startSequencer_busy (p : Phase) : (s.startSequencer p).busy = true := rfl
@[simp] theorem State.startSequencer_done (p : Phase) : (s.startSequencer p).done = s.done := rfl
@[simp] theorem State.startSequencer_err (p : Phase) : (s.startSequencer p).err = s.err := rfl
@[simp] theorem State.startSequencer_mfault (p : Phase) : (s.startSequencer p).mfault = s.mfault := rfl
@[simp] theorem State.startSequencer_rst (p : Phase) : (s.startSequencer p).rst = s.rst := rfl
@[simp] theorem State.startSequencer_cmd (p : Phase) : (s.startSequencer p).cmd = s.cmd := rfl
@[simp] theorem State.startSequencer_dinBlk (p : Phase) : (s.startSequencer p).dinBlk = s.dinBlk := rfl
@[simp] theorem State.startSequencer_dinKey (p : Phase) : (s.startSequencer p).dinKey = s.dinKey := rfl
@[simp] theorem State.startSequencer_rom (p : Phase) : (s.startSequencer p).rom = s.rom := rfl
@[simp] theorem State.startSequencer_schedule (p : Phase) : (s.startSequencer p).schedule = s.schedule := rfl
@[simp] theorem State.startSequencer_freeCount (p : Phase) : (s.startSequencer p).freeCount = s.freeCount := rfl

/-! `advanceSub` -/

@[simp] theorem State.advanceSub_blk : s.advanceSub.blk = s.blk := rfl
@[simp] theorem State.advanceSub_key : s.advanceSub.key = s.key := rfl
@[simp] theorem State.advanceSub_rc : s.advanceSub.rc = s.rc := rfl
@[simp] theorem State.advanceSub_tsel : s.advanceSub.tsel = s.tsel := rfl
@[simp] theorem State.advanceSub_phase : s.advanceSub.phase = s.phase := rfl
@[simp] theorem State.advanceSub_sub : s.advanceSub.sub = s.sub + 1 := rfl
@[simp] theorem State.advanceSub_cmdl : s.advanceSub.cmdl = s.cmdl := rfl
@[simp] theorem State.advanceSub_busy : s.advanceSub.busy = s.busy := rfl
@[simp] theorem State.advanceSub_done : s.advanceSub.done = s.done := rfl
@[simp] theorem State.advanceSub_err : s.advanceSub.err = s.err := rfl
@[simp] theorem State.advanceSub_mfault : s.advanceSub.mfault = s.mfault := rfl
@[simp] theorem State.advanceSub_rst : s.advanceSub.rst = s.rst := rfl
@[simp] theorem State.advanceSub_cmd : s.advanceSub.cmd = s.cmd := rfl
@[simp] theorem State.advanceSub_dinBlk : s.advanceSub.dinBlk = s.dinBlk := rfl
@[simp] theorem State.advanceSub_dinKey : s.advanceSub.dinKey = s.dinKey := rfl
@[simp] theorem State.advanceSub_rom : s.advanceSub.rom = s.rom := rfl
@[simp] theorem State.advanceSub_schedule : s.advanceSub.schedule = s.schedule := rfl
@[simp] theorem State.advanceSub_freeCount : s.advanceSub.freeCount = s.freeCount := rfl

/-! `raiseModelFault` -/

@[simp] theorem State.raiseModelFault_blk : s.raiseModelFault.blk = s.blk := rfl
@[simp] theorem State.raiseModelFault_key : s.raiseModelFault.key = s.key := rfl
@[simp] theorem State.raiseModelFault_rc : s.raiseModelFault.rc = s.rc := rfl
@[simp] theorem State.raiseModelFault_tsel : s.raiseModelFault.tsel = s.tsel := rfl
@[simp] theorem State.raiseModelFault_phase : s.raiseModelFault.phase = s.phase := rfl
@[simp] theorem State.raiseModelFault_sub : s.raiseModelFault.sub = s.sub := rfl
@[simp] theorem State.raiseModelFault_cmdl : s.raiseModelFault.cmdl = s.cmdl := rfl
@[simp] theorem State.raiseModelFault_busy : s.raiseModelFault.busy = s.busy := rfl
@[simp] theorem State.raiseModelFault_done : s.raiseModelFault.done = s.done := rfl
@[simp] theorem State.raiseModelFault_err : s.raiseModelFault.err = s.err := rfl
@[simp] theorem State.raiseModelFault_mfault : s.raiseModelFault.mfault = some .unloadedRead := rfl
@[simp] theorem State.raiseModelFault_rst : s.raiseModelFault.rst = s.rst := rfl
@[simp] theorem State.raiseModelFault_cmd : s.raiseModelFault.cmd = s.cmd := rfl
@[simp] theorem State.raiseModelFault_dinBlk : s.raiseModelFault.dinBlk = s.dinBlk := rfl
@[simp] theorem State.raiseModelFault_dinKey : s.raiseModelFault.dinKey = s.dinKey := rfl
@[simp] theorem State.raiseModelFault_rom : s.raiseModelFault.rom = s.rom := rfl
@[simp] theorem State.raiseModelFault_schedule : s.raiseModelFault.schedule = s.schedule := rfl
@[simp] theorem State.raiseModelFault_freeCount : s.raiseModelFault.freeCount = s.freeCount + 1 := rfl

/-! `resetEvent` -/

@[simp] theorem State.resetEvent_blk : s.resetEvent.blk = Reg.absent 64 := rfl
@[simp] theorem State.resetEvent_key : s.resetEvent.key = Reg.absent 80 := rfl
@[simp] theorem State.resetEvent_rc : s.resetEvent.rc = Reg.absent 5 := rfl
@[simp] theorem State.resetEvent_tsel : s.resetEvent.tsel = .fwd := rfl
@[simp] theorem State.resetEvent_phase : s.resetEvent.phase = .idle := rfl
@[simp] theorem State.resetEvent_sub : s.resetEvent.sub = 0 := rfl
@[simp] theorem State.resetEvent_cmdl : s.resetEvent.cmdl = Reg.absent 16 := rfl
@[simp] theorem State.resetEvent_busy : s.resetEvent.busy = false := rfl
@[simp] theorem State.resetEvent_done : s.resetEvent.done = false := rfl
@[simp] theorem State.resetEvent_err : s.resetEvent.err = .ok := rfl
@[simp] theorem State.resetEvent_mfault : s.resetEvent.mfault = none := rfl
@[simp] theorem State.resetEvent_rst : s.resetEvent.rst = true := rfl
@[simp] theorem State.resetEvent_cmd : s.resetEvent.cmd = s.cmd := rfl
@[simp] theorem State.resetEvent_dinBlk : s.resetEvent.dinBlk = s.dinBlk := rfl
@[simp] theorem State.resetEvent_dinKey : s.resetEvent.dinKey = s.dinKey := rfl
@[simp] theorem State.resetEvent_rom : s.resetEvent.rom = s.rom := rfl
@[simp] theorem State.resetEvent_schedule : s.resetEvent.schedule = s.schedule := rfl
@[simp] theorem State.resetEvent_freeCount : s.resetEvent.freeCount = s.freeCount + 1 := rfl

/-! `withInputs` -/

@[simp] theorem State.withInputs_blk (b : Block) (k : Key) : (s.withInputs b k).blk = s.blk := rfl
@[simp] theorem State.withInputs_key (b : Block) (k : Key) : (s.withInputs b k).key = s.key := rfl
@[simp] theorem State.withInputs_rc (b : Block) (k : Key) : (s.withInputs b k).rc = s.rc := rfl
@[simp] theorem State.withInputs_tsel (b : Block) (k : Key) : (s.withInputs b k).tsel = s.tsel := rfl
@[simp] theorem State.withInputs_phase (b : Block) (k : Key) : (s.withInputs b k).phase = s.phase := rfl
@[simp] theorem State.withInputs_sub (b : Block) (k : Key) : (s.withInputs b k).sub = s.sub := rfl
@[simp] theorem State.withInputs_cmdl (b : Block) (k : Key) : (s.withInputs b k).cmdl = s.cmdl := rfl
@[simp] theorem State.withInputs_busy (b : Block) (k : Key) : (s.withInputs b k).busy = s.busy := rfl
@[simp] theorem State.withInputs_done (b : Block) (k : Key) : (s.withInputs b k).done = s.done := rfl
@[simp] theorem State.withInputs_err (b : Block) (k : Key) : (s.withInputs b k).err = s.err := rfl
@[simp] theorem State.withInputs_mfault (b : Block) (k : Key) : (s.withInputs b k).mfault = s.mfault := rfl
@[simp] theorem State.withInputs_rst (b : Block) (k : Key) : (s.withInputs b k).rst = s.rst := rfl
@[simp] theorem State.withInputs_cmd (b : Block) (k : Key) : (s.withInputs b k).cmd = s.cmd := rfl
@[simp] theorem State.withInputs_dinBlk (b : Block) (k : Key) : (s.withInputs b k).dinBlk = b := rfl
@[simp] theorem State.withInputs_dinKey (b : Block) (k : Key) : (s.withInputs b k).dinKey = k := rfl
@[simp] theorem State.withInputs_rom (b : Block) (k : Key) : (s.withInputs b k).rom = s.rom := rfl
@[simp] theorem State.withInputs_schedule (b : Block) (k : Key) : (s.withInputs b k).schedule = s.schedule := rfl
@[simp] theorem State.withInputs_freeCount (b : Block) (k : Key) : (s.withInputs b k).freeCount = s.freeCount := rfl

end Sys2Proof.Machine
end

