-- ==== Sys2Proof/Laws/Ops.lean ====
section
/-! SUPPORT. What the shared operations of the issue event can do, said once: the issue checks, every command's
acceptance, and the cases of a turn. -/

namespace Sys2Proof.Machine

theorem issueCheck_busy {s : State} (h : s.busy = true) (accept : State → State) :
    issueCheck s accept = .next (s.raiseErr .busy) := by
  simp [issueCheck, h]

theorem issueCheck_idle {s : State} (h : s.busy = false) (accept : State → State) :
    issueCheck s accept = .next (accept s.clearStatus) := by
  simp [issueCheck, h]

theorem issueIllegal_busy {s : State} (h : s.busy = true) : issueIllegal s = .next (s.raiseErr .busy) := by
  simp [issueIllegal, h]

theorem issueIllegal_idle {s : State} (h : s.busy = false) : issueIllegal s = .next (s.raiseErr .illegal) := by
  simp [issueIllegal, h]

theorem issueRound_ok {r : Round} (h : roundOk r = true) (s : State) (accept : State → State) :
    issueRound r s accept = issueCheck s accept := by
  simp [issueRound, h]

theorem issueRound_zero {r : Round} (h : roundOk r = false) (s : State) (accept : State → State) :
    issueRound r s accept = issueIllegal s := by
  simp [issueRound, h]

/-- The acceptance action of R35, as one function of the command. -/
def acceptance : Instr → State → State
  | .nop, s => s.finishAtOnce
  | .ldb, s => s.loadBlk.finishAtOnce
  | .ldk, s => s.loadKey.finishAtOnce
  | .ark, s => s.startPrim .ark
  | .sl t, s => (s.setTsel t).startPrim (.sl t)
  | .pl, s => s.startPrim .pl
  | .ksf r, s => s.startPrim (.ksf r)
  | .ksi r, s => s.startPrim (.ksi r)
  | .rnde r, s => (s.setTsel .fwd).startPrim (.rnde r)
  | .rndd r, s => (s.setTsel .inv).startPrim (.rndd r)
  | .enc, s => (s.loadBlk.loadKey.setTsel .fwd).startSequencer .eRnd
  | .dec, s => (s.loadBlk.loadKey.setTsel .fwd).startSequencer .dFf

/-- A well-formed command's meaning is the issue check around its acceptance action. -/
theorem exec_wf {i : Instr} (h : i.wf = true) (s : State) : exec i s = issueCheck s (acceptance i) := by
  cases i with
  | ksf r => exact issueRound_ok h s _
  | ksi r => exact issueRound_ok h s _
  | rnde r => exact issueRound_ok h s _
  | rndd r => exact issueRound_ok h s _
  | _ => rfl

/-- A command that is not well formed is rejected as illegal. -/
theorem exec_not_wf {i : Instr} (h : i.wf = false) (s : State) : exec i s = issueIllegal s := by
  cases i with
  | ksf r => exact issueRound_zero h s _
  | ksi r => exact issueRound_zero h s _
  | rnde r => exact issueRound_zero h s _
  | rndd r => exact issueRound_zero h s _
  | _ => cases h

/-- Everything a command's meaning can do. -/
theorem exec_cases {i : Instr} {s t : State} (h : exec i s = .next t) :
    (s.busy = true ∧ t = s.raiseErr .busy) ∨
    (s.busy = false ∧ i.wf = true ∧ t = acceptance i s.clearStatus) ∨
    (s.busy = false ∧ i.wf = false ∧ t = s.raiseErr .illegal) := by
  cases hb : s.busy with
  | true =>
    left
    cases hw : i.wf with
    | true => rw [exec_wf hw, issueCheck_busy hb] at h; exact ⟨rfl, (Host.Outcome.next.inj h).symm⟩
    | false => rw [exec_not_wf hw, issueIllegal_busy hb] at h; exact ⟨rfl, (Host.Outcome.next.inj h).symm⟩
  | false =>
    right
    cases hw : i.wf with
    | true =>
      rw [exec_wf hw, issueCheck_idle hb] at h
      exact .inl ⟨rfl, rfl, (Host.Outcome.next.inj h).symm⟩
    | false =>
      rw [exec_not_wf hw, issueIllegal_idle hb] at h
      exact .inr ⟨rfl, rfl, (Host.Outcome.next.inj h).symm⟩

/-- A command's meaning never stops. -/
theorem exec_answers (i : Instr) (s : State) : ∃ t, exec i s = .next t := by
  cases hb : s.busy <;> cases hw : i.wf
  · exact ⟨_, (exec_not_wf hw s).trans (issueIllegal_idle hb)⟩
  · exact ⟨_, (exec_wf hw s).trans (issueCheck_idle hb _)⟩
  · exact ⟨_, (exec_not_wf hw s).trans (issueIllegal_busy hb)⟩
  · exact ⟨_, (exec_wf hw s).trans (issueCheck_busy hb _)⟩

/-- Everything an issue event can do (R34, R232). -/
theorem issueEvent_cases {s t : State} (h : issueEvent s = .next t) :
    (s.rst = true ∧ t = s) ∨
    (s.rst = false ∧ ∃ i, decode s.cmd = .ok i ∧ exec i s = .next t) ∨
    (s.rst = false ∧ ∃ e, decode s.cmd = .error e ∧ issueIllegal s = .next t) := by
  unfold issueEvent State.sampleCmd at h
  split at h
  case isTrue hr => exact .inl ⟨hr, (Host.Outcome.next.inj h).symm⟩
  case isFalse hr =>
    have hr : s.rst = false := by simpa using hr
    split at h
    case h_1 i hi => exact .inr (.inl ⟨hr, i, hi, h⟩)
    case h_2 e he => exact .inr (.inr ⟨hr, e, he, h⟩)

/-- An issue event never stops. -/
theorem issueEvent_answers (s : State) : ∃ t, issueEvent s = .next t := by
  unfold issueEvent
  split
  · exact ⟨_, rfl⟩
  · split
    · exact exec_answers _ _
    · cases hb : s.busy
      · exact ⟨_, issueIllegal_idle hb⟩
      · exact ⟨_, issueIllegal_busy hb⟩

/-- With lawful tables a step is the turn at the head of the schedule, or the core's. -/
theorem step_turn {s : State} (h : lawfulTables s.rom = true) :
    step s = turnStep s.turn { s with schedule := s.schedule.tail } := by
  obtain ⟨blk, key, rc, tsel, phase, sub, cmdl, busy, done, err, mfault, rst, cmd, dinBlk, dinKey, rom, schedule, n⟩ := s
  cases schedule <;> simp_all [step, takeTurn, State.turn, turnStep]

theorem step_unlawful {s : State} (h : lawfulTables s.rom = false) : step s = .refused .unlawfulTables := by
  simp [step, takeTurn, h]

/-- A step that answers a next state is a turn over lawful tables. -/
theorem step_next {s t : State} (h : step s = .next t) :
    lawfulTables s.rom = true ∧ turnStep s.turn { s with schedule := s.schedule.tail } = .next t := by
  cases hl : lawfulTables s.rom with
  | true => exact ⟨rfl, step_turn hl ▸ h⟩
  | false => rw [step_unlawful hl] at h; cases h

theorem run_succ (n : Nat) {s t : State} (h : step s = .next t) : run (n + 1) s = run n t := by
  simp [run, h]

theorem core_run_next (M : Host.Core) (n : Nat) {s t : M.State} (h : M.step s = .next t) :
    M.run (n + 1) s = M.run n t := by
  simp [Host.Core.run, h]

theorem core_run_fault (M : Host.Core) (n : Nat) {s : M.State} {f : M.Fault} (h : M.step s = .fault f) :
    M.run (n + 1) s = .fault f := by
  simp [Host.Core.run, h]

theorem core_run_refused (M : Host.Core) (n : Nat) {s : M.State} {r : M.Refusal} (h : M.step s = .refused r) :
    M.run (n + 1) s = .refused r := by
  simp [Host.Core.run, h]

theorem run_fault (n : Nat) {s : State} {f : Fault} (h : step s = .fault f) : run (n + 1) s = .fault f := by
  simp [run, h]

theorem run_refused (n : Nat) {s : State} {r : Refusal} (h : step s = .refused r) : run (n + 1) s = .refused r := by
  simp [run, h]

/-- The host's run of the machine is the model's run of turns. -/
theorem core_run_eq (n : Nat) (s : State) : Sys2Proof.core.run n s = run n s := by
  induction n generalizing s with
  | zero => rfl
  | succ n ih =>
    cases h : step s with
    | next t => exact (core_run_next Sys2Proof.core n h).trans ((ih t).trans (run_succ n h).symm)
    | fault f => exact (core_run_fault Sys2Proof.core n h).trans (run_fault n h).symm
    | refused r => exact (core_run_refused Sys2Proof.core n h).trans (run_refused n h).symm

end Sys2Proof.Machine
end

