-- ==== Sys2Proof/Laws/PerInstr.lean ====
section
/-! SUPPORT. Statements for all instructions, made constructor by constructor (LAWS.json). -/

namespace Sys2Proof.Laws.EncodeMatchesRow

/-- The word of a well-formed command selects the command's own row of the opcode map and meets the row's constraint on
R (R75). -/
def Statement (i : Instr) : Prop :=
  i.wf = true →
    i.row ∈ opcodeMap ∧ encode i &&& i.row.mask = i.row.pattern ∧
      (i.row.mask = 0xFC1F → 1 ≤ (rField (encode i)).toNat)

theorem nop : Statement .nop := fun _ => by decide

theorem ldb : Statement .ldb := fun _ => by decide

theorem ldk : Statement .ldk := fun _ => by decide

theorem ark : Statement .ark := fun _ => by decide

theorem sl (t : Table) : Statement (.sl t) := fun _ => by cases t <;> decide

theorem pl : Statement .pl := fun _ => by decide

theorem ksf (r : Round) : Statement (.ksf r) := by unfold Statement; revert r; decide +kernel

theorem ksi (r : Round) : Statement (.ksi r) := by unfold Statement; revert r; decide +kernel

theorem rnde (r : Round) : Statement (.rnde r) := by unfold Statement; revert r; decide +kernel

theorem rndd (r : Round) : Statement (.rndd r) := by unfold Statement; revert r; decide +kernel

theorem enc : Statement .enc := fun _ => by decide

theorem dec : Statement .dec := fun _ => by decide

end Sys2Proof.Laws.EncodeMatchesRow
end

