-- ==== Sys2Proof/Laws/Sequencer.lean ====
section
/-! SUPPORT. What a micro-op and a core micro-step can do, said once. -/

namespace Sys2Proof.Machine

theorem microArk_loaded {s : State} (hb : s.blk.present = true) (hk : s.key.present = true) :
    microArk s = some { s with blk := Reg.loaded (keyMix s.key.value s.blk.value) } := by
  simp [microArk, Reg.get?_of_present hb, Reg.get?_of_present hk]

theorem microSub_loaded {s : State} (hb : s.blk.present = true) :
    microSub s = some { s with blk := Reg.loaded (sLayer (selectTable s.rom s.tsel) s.blk.value) } := by
  simp [microSub, Reg.get?_of_present hb]

theorem microPerm_loaded {s : State} (hb : s.blk.present = true) :
    microPerm s = some { s with blk := Reg.loaded (pLayer s.blk.value) } := by
  simp [microPerm, Reg.get?_of_present hb]

theorem microKsf_loaded {s : State} (r : Round) (hk : s.key.present = true) :
    microKsf r s = some { s with key := Reg.loaded (ksForward s.rom r s.key.value) } := by
  simp [microKsf, Reg.get?_of_present hk]

theorem microKsi_loaded {s : State} (r : Round) (hk : s.key.present = true) :
    microKsi r s = some { s with key := Reg.loaded (ksInverse s.rom r s.key.value) } := by
  simp [microKsi, Reg.get?_of_present hk]

/-- The micro-op writes BLK (R22). -/
def MicroOp.writesBlk : MicroOp → Bool
  | .ark => true
  | .sub => true
  | .perm => true
  | .ksf _ => false
  | .ksi _ => false

/-- A micro-op writes one data register, BLK or KEY, and nothing else. -/
theorem MicroOp.run_some {m : MicroOp} {s t : State} (h : m.run s = some t) :
    (m.writesBlk = true ∧ s.blk.present = true ∧ ∃ b, t = { s with blk := Reg.loaded b }) ∨
    (m.writesBlk = false ∧ s.key.present = true ∧ ∃ k, t = { s with key := Reg.loaded k }) := by
  cases m with
  | ark =>
    simp only [MicroOp.run, microArk] at h
    split at h
    case h_1 b k hb hk =>
      cases h
      exact .inl ⟨rfl, by rw [Reg.get?_eq_some.1 hb]; rfl, _, rfl⟩
    case h_2 => cases h
  | sub =>
    simp only [MicroOp.run, microSub] at h
    split at h
    case h_1 b hb => cases h; exact .inl ⟨rfl, by rw [Reg.get?_eq_some.1 hb]; rfl, _, rfl⟩
    case h_2 => cases h
  | perm =>
    simp only [MicroOp.run, microPerm] at h
    split at h
    case h_1 b hb => cases h; exact .inl ⟨rfl, by rw [Reg.get?_eq_some.1 hb]; rfl, _, rfl⟩
    case h_2 => cases h
  | ksf r =>
    simp only [MicroOp.run, microKsf] at h
    split at h
    case h_1 k hk => cases h; exact .inr ⟨rfl, by rw [Reg.get?_eq_some.1 hk]; rfl, _, rfl⟩
    case h_2 => cases h
  | ksi r =>
    simp only [MicroOp.run, microKsi] at h
    split at h
    case h_1 k hk => cases h; exact .inr ⟨rfl, by rw [Reg.get?_eq_some.1 hk]; rfl, _, rfl⟩
    case h_2 => cases h

/-- A micro-op runs wherever both data registers are loaded. -/
theorem MicroOp.run_loaded (m : MicroOp) {s : State} (hb : s.blk.present = true) (hk : s.key.present = true) :
    ∃ t, m.run s = some t := by
  cases m with
  | ark => exact ⟨_, microArk_loaded hb hk⟩
  | sub => exact ⟨_, microSub_loaded hb⟩
  | perm => exact ⟨_, microPerm_loaded hb⟩
  | ksf r => exact ⟨_, microKsf_loaded r hk⟩
  | ksi r => exact ⟨_, microKsi_loaded r hk⟩

theorem perform_some {m : MicroOp} {s t : State} (h : m.run s = some t) (move : State → State) :
    perform m s move = .next (move t) := by
  simp [perform, h]

theorem perform_none {m : MicroOp} {s : State} (h : m.run s = none) (move : State → State) :
    perform m s move = .next s.raiseModelFault := by
  simp [perform, h]

theorem performAt_some {ops : List MicroOp} {s : State} {m : MicroOp} (h : ops[s.sub.toNat]? = some m)
    (move : State → State) : performAt ops s move = perform m s move := by
  simp [performAt, h]

theorem latchedOps_eq (s : State) : s.latchedOps = s.latched.bind primOps := by
  unfold State.latchedOps State.latched
  cases s.cmdl.get? with
  | none => rfl
  | some w => cases h : decode w <;> simp [h]

theorem primOps_length {c : Instr} {ops : List MicroOp} (h : primOps c = some ops) : 0 < ops.length ∧ ops.length ≤ 5 := by
  cases c <;> simp [primOps] at h <;> subst h <;> simp

theorem roundNumber_some {s : State} {r : Round} (h : s.roundNumber? = some r) : s.rc = Reg.loaded r ∧ r ≠ 0 := by
  unfold State.roundNumber? at h
  split at h
  · rename_i x hx
    split at h
    · cases h; rename_i hr; exact ⟨Reg.get?_eq_some.1 hx, by simpa [roundOk] using hr⟩
    · cases h
  · cases h

theorem roundNumber_loaded {s : State} {r : Round} (h : s.rc = Reg.loaded r) (h0 : r ≠ 0) : s.roundNumber? = some r := by
  have h0' : ¬ r = 0#5 := h0
  simp [State.roundNumber?, h, roundOk, h0']

/-- A micro-op leaves the sequencer and the status alone, and loaded registers stay loaded. -/
theorem MicroOp.run_fields {m : MicroOp} {s u : State} (h : m.run s = some u) :
    u.rc = s.rc ∧ u.tsel = s.tsel ∧ u.phase = s.phase ∧ u.sub = s.sub ∧ u.cmdl = s.cmdl ∧ u.busy = s.busy ∧
    u.done = s.done ∧ u.err = s.err ∧ u.mfault = s.mfault ∧ u.rst = s.rst ∧
    (s.blk.present = true → u.blk.present = true) ∧ (s.key.present = true → u.key.present = true) := by
  rcases m.run_some h with ⟨_, _, b, rfl⟩ | ⟨_, _, b, rfl⟩ <;> simp

/-- A micro-op that raises the model fault found one of the two registers absent. -/
theorem MicroOp.run_none {m : MicroOp} {s : State} (h : m.run s = none) :
    s.blk.present = false ∨ s.key.present = false := by
  cases hb : s.blk.present <;> cases hk : s.key.present <;> simp
  obtain ⟨t, ht⟩ := m.run_loaded hb hk
  rw [h] at ht; cases ht

/-- What `perform` can answer: the moved state, or the faulted one. -/
theorem perform_cases {m : MicroOp} {s t : State} {move : State → State} (h : perform m s move = .next t) :
    (m.run s = none ∧ t = s.raiseModelFault) ∨ ∃ u, m.run s = some u ∧ t = move u := by
  cases hm : m.run s with
  | none => rw [perform_none hm] at h; exact .inl ⟨rfl, (Host.Outcome.next.inj h).symm⟩
  | some u => rw [perform_some hm] at h; exact .inr ⟨u, rfl, (Host.Outcome.next.inj h).symm⟩

theorem performAt_cases {ops : List MicroOp} {s t : State} {move : State → State}
    (h : performAt ops s move = .next t) :
    ∃ m, ops[s.sub.toNat]? = some m ∧
      ((m.run s = none ∧ t = s.raiseModelFault) ∨ ∃ u, m.run s = some u ∧ t = move u) := by
  cases hm : ops[s.sub.toNat]? with
  | none => simp [performAt, hm] at h
  | some m => rw [performAt_some hm] at h; exact ⟨m, rfl, perform_cases h⟩

/-- Everything a core micro-step that answers a next state can do while no model fault stands. -/
inductive CoreMove (s : State) : State → Prop where
  /-- an idle core's turn passes -/
  | wait (phase : s.phase = .idle) : CoreMove s s
  /-- a micro-op reads an absent register -/
  | unloaded (m : MicroOp) (phase : s.phase ≠ .idle) (run : m.run s = none) : CoreMove s s.raiseModelFault
  | prim (ops : List MicroOp) (m : MicroOp) (u : State) (phase : s.phase = .prim)
      (latched : s.latchedOps = some ops) (op : ops[s.sub.toNat]? = some m) (run : m.run s = some u) :
      CoreMove s (primMove ops u)
  | encrypt (r : Round) (m : MicroOp) (u : State) (phase : s.phase = .eRnd) (round : s.roundNumber? = some r)
      (op : (encryptOps r)[s.sub.toNat]? = some m) (run : m.run s = some u) : CoreMove s (encryptMove r u)
  | forward (r : Round) (u : State) (phase : s.phase = .dFf) (round : s.roundNumber? = some r)
      (run : microKsf r s = some u) : CoreMove s (fastForwardMove r u)
  | decrypt (r : Round) (m : MicroOp) (u : State) (phase : s.phase = .dRnd) (round : s.roundNumber? = some r)
      (op : (decryptOps r)[s.sub.toNat]? = some m) (run : m.run s = some u) : CoreMove s (decryptMove r u)
  | final (u : State) (phase : s.phase = .eFin ∨ s.phase = .dFin) (run : microArk s = some u) :
      CoreMove s u.complete

/-- The inversion of a core micro-step: in a model fault nothing changes, else it is one of the moves. -/
theorem coreStep_next {s t : State} (h : coreStep s = .next t) :
    (s.mfault ≠ none ∧ t = s) ∨ (s.mfault = none ∧ CoreMove s t) := by
  unfold coreStep at h
  split at h
  case h_1 f hf => exact .inl ⟨by simp [hf], (Host.Outcome.next.inj h).symm⟩
  case h_2 hf =>
    refine .inr ⟨hf, ?_⟩
    split at h
    case h_1 hp => cases h; exact .wait hp
    case h_2 hp =>
      have hne : s.phase ≠ .idle := by simp [hp]
      unfold primStep at h
      split at h
      case h_1 ops ho =>
        obtain ⟨m, hm, ⟨hr, rfl⟩ | ⟨u, hr, rfl⟩⟩ := performAt_cases h
        · exact .unloaded m hne hr
        · exact .prim ops m u hp ho hm hr
      · cases h
    case h_3 hp =>
      have hne : s.phase ≠ .idle := by simp [hp]
      unfold encryptStep at h
      split at h
      case h_1 r hround =>
        obtain ⟨m, hm, ⟨hr, rfl⟩ | ⟨u, hr, rfl⟩⟩ := performAt_cases h
        · exact .unloaded m hne hr
        · exact .encrypt r m u hp hround hm hr
      · cases h
    case h_4 hp =>
      have hne : s.phase ≠ .idle := by simp [hp]
      obtain ⟨hr, rfl⟩ | ⟨u, hr, rfl⟩ := perform_cases h
      · exact .unloaded .ark hne hr
      · exact .final u (.inl hp) hr
    case h_5 hp =>
      have hne : s.phase ≠ .idle := by simp [hp]
      unfold fastForwardStep at h
      split at h
      case h_1 r hround =>
        obtain ⟨hr, rfl⟩ | ⟨u, hr, rfl⟩ := perform_cases h
        · exact .unloaded (.ksf r) hne hr
        · exact .forward r u hp hround hr
      · cases h
    case h_6 hp =>
      have hne : s.phase ≠ .idle := by simp [hp]
      unfold decryptStep at h
      split at h
      case h_1 r hround =>
        obtain ⟨m, hm, ⟨hr, rfl⟩ | ⟨u, hr, rfl⟩⟩ := performAt_cases h
        · exact .unloaded m hne hr
        · exact .decrypt r m u hp hround hm hr
      · cases h
    case h_7 hp =>
      have hne : s.phase ≠ .idle := by simp [hp]
      obtain ⟨hr, rfl⟩ | ⟨u, hr, rfl⟩ := perform_cases h
      · exact .unloaded .ark hne hr
      · exact .final u (.inr hp) hr

/-- A core in a model fault takes no step (R208). -/
theorem coreStep_faulted {s : State} (h : s.mfault ≠ none) : coreStep s = .next s := by
  obtain ⟨f, hf⟩ := Option.ne_none_iff_exists'.1 h
  simp [coreStep, hf]

theorem coreRun_succ {s t : State} (h : coreStep s = .next t) (n : Nat) : coreRun (n + 1) s = coreRun n t := by
  simp [coreRun, h]

/-- Two runs of micro-steps after one another are one run. -/
theorem coreRun_add {s t : State} {m : Nat} (h : coreRun m s = .next t) (n : Nat) :
    coreRun (m + n) s = coreRun n t := by
  induction m generalizing s with
  | zero => simp only [coreRun] at h; cases h; simp
  | succ m ih =>
    rw [Nat.succ_add]
    simp only [coreRun] at h ⊢
    cases hs : coreStep s with
    | next u => rw [hs] at h; exact ih h
    | fault f => rw [hs] at h; cases h
    | refused r => rw [hs] at h; cases h

end Sys2Proof.Machine
end

