-- ==== Sys2Proof/Tests/Slice0.lean ====
section
/-! SUPPORT. The model's own tests. Expected words and values are those of 95_test_vectors.md (named V-…) and the
examples of the rules; after them, for each statement with hypotheses, a witness that meets them. -/

namespace Sys2Proof.Tests

open Sys2Proof.Machine

/-! ### Helpers -/

/-- A command word from its fields, written in the order RSVD, R, T, OP of R70. -/
def word (rsvd : BitVec 6) (r : BitVec 5) (t : BitVec 1) (op : BitVec 4) : CmdWord := rsvd ++ r ++ t ++ op

/-- The command a word decodes to. -/
def decoded (w : CmdWord) : Option Instr :=
  match decode w with
  | .ok i => some i
  | .error _ => none

/-- The idle core with both data registers loaded. -/
def loaded (b : Block) (k : Key) : State := { State.reset with blk := Reg.loaded b, key := Reg.loaded k }

/-- The next state of an outcome. -/
def after : Host.Outcome State Fault Refusal → Option State
  | .next s => some s
  | .fault _ => none
  | .refused _ => none

/-- BLK and KEY at the end of a primitive command (R40). -/
def result (i : Instr) (s : State) : Option (Block × Key) :=
  match exec i s with
  | .next t =>
    match coreRun (microSteps i) t with
    | .next u => if u.Ended then some (u.blk.value, u.key.value) else none
    | .fault _ => none
    | .refused _ => none
  | .fault _ => none
  | .refused _ => none

/-- ENC in its first round (R141), over the values of V-EN5. -/
def encrypting : State :=
  { loaded 0x0123456789ABCDEF 0x0123456789ABCDEF0123 with busy := true, phase := .eRnd, rc := Reg.loaded 1 }

/-- DEC at its final key-mix (R162), over the end of the DEC trace of 95_test_vectors.md §2.7. -/
def finishing : State :=
  { loaded 0 0 with busy := true, phase := .dFin, rc := Reg.loaded 0, tsel := .inv, sub := 4 }

/-- DEC at the last step of its fast-forward (R162). -/
def forwarding : State := { loaded 0 0 with busy := true, phase := .dFf, rc := Reg.loaded 31 }

/-- An accepted `sl fwd` before any load (95_test_vectors.md §3.7). -/
def unloadedSl : State := { State.reset with busy := true, phase := .prim, cmdl := Reg.loaded 0x0004 }

/-- The same after its micro-step: the core stands in the model fault. -/
def stalled : State := { unloadedSl with mfault := some .unloadedRead, freeCount := 1 }

/-- Tables that break R102. -/
def brokenTables : Tables := { fwd := defaultSbox, inv := defaultSbox }

/-! ### WellFormed: an ill-formed term for each check -/

theorem test_wf_refuses_ksf_zero : (Instr.ksf 0).wf = false := by decide

theorem test_wf_refuses_ksi_zero : (Instr.ksi 0).wf = false := by decide

theorem test_wf_refuses_rnde_zero : (Instr.rnde 0).wf = false := by decide

theorem test_wf_refuses_rndd_zero : (Instr.rndd 0).wf = false := by decide

theorem test_wf_takes_both_ends : (Instr.ksf 1).wf = true ∧ (Instr.rndd 31).wf = true := by decide

/-! ### Decode: words from the fields of R70 and the codes of R71 -/

theorem test_decode_nop : decoded (word 0b000000 0b00000 0b0 0b0000) = some .nop := by decide

theorem test_decode_ldb : decoded (word 0b000000 0b00000 0b0 0b0001) = some .ldb := by decide

theorem test_decode_ldk : decoded (word 0b000000 0b00000 0b0 0b0010) = some .ldk := by decide

theorem test_decode_ark : decoded (word 0b000000 0b00000 0b0 0b0011) = some .ark := by decide

theorem test_decode_sl_fwd : decoded (word 0b000000 0b00000 0b0 0b0100) = some (.sl .fwd) := by decide

theorem test_decode_sl_inv : decoded (word 0b000000 0b00000 0b1 0b0100) = some (.sl .inv) := by decide

theorem test_decode_pl : decoded (word 0b000000 0b00000 0b0 0b0101) = some .pl := by decide

theorem test_decode_ksf : decoded (word 0b000000 0b00001 0b0 0b0110) = some (.ksf 1) := by decide

theorem test_decode_ksi : decoded (word 0b000000 0b11111 0b0 0b0111) = some (.ksi 31) := by decide

theorem test_decode_rnde : decoded (word 0b000000 0b10001 0b0 0b1000) = some (.rnde 17) := by decide

theorem test_decode_rndd : decoded (word 0b000000 0b10000 0b0 0b1001) = some (.rndd 16) := by decide

theorem test_decode_enc : decoded (word 0b000000 0b00000 0b0 0b1010) = some .enc := by decide

theorem test_decode_dec : decoded (word 0b000000 0b00000 0b0 0b1011) = some .dec := by decide

/-- The illegal words of 95_test_vectors.md §2.1. -/
theorem test_decode_illegal :
    ([0x0006, 0x0009, 0x0010, 0x0015, 0x0020, 0x002A, 0x0034, 0x000C, 0x000F, 0x0400, 0x8003, 0xFFFF] :
      List CmdWord).all (fun w => decoded w == none) = true := by decide

/-- The words of R82's examples. -/
theorem test_encode :
    encode (.ksf 1) = 0x0026 ∧ encode (.ksf 31) = 0x03E6 ∧ encode (.rnde 17) = 0x0228 ∧ encode (.rndd 31) = 0x03E9 ∧
    encode (.sl .inv) = 0x0014 ∧ encode .enc = 0x000A ∧ encode .dec = 0x000B := by decide

theorem test_table_word : decodeTableWord 16 0x0228 = some (.rnde 17) ∧ decodeTableWord 16 0x1000A = none := by decide

/-- 95_test_vectors.md §3.4: kff is the words 0x0026 to 0x03E6; R79: an operand out of range is refused. -/
theorem test_assemble :
    assemble ["pli ; twice".toList, "  rnde 17".toList, "".toList, "ark_final".toList] =
      .ok [0x0005, 0x0005, 0x0228, 0x0003] ∧
    (assemble ["kff".toList]).toOption.map (fun ws => (ws.length, ws.head?, ws.getLast?)) =
      some (31, some 0x0026, some 0x03E6) ∧
    parseLine "ksf 32".toList = .error .roundOutOfRange ∧ parseLine "nop 1".toList = .error .badOperand := by decide

/-! ### The commands -/

/-- V-RG1. -/
theorem test_nop_clears_err :
    (after (exec .nop { State.reset with err := .busy, done := true })).map (fun t => (t.status, t.blk.present)) =
      some (0b0010, false) := by decide

/-- V-RG2. -/
theorem test_ldb :
    (after (exec .ldb { State.reset with dinBlk := 0x0123456789ABCDEF })).map (fun t => (t.doutBlk, t.status)) =
      some (0x0123456789ABCDEF, 0b0010) := by decide

/-- R95: block buffer byte 0 is 0x01. -/
theorem test_block_byte_zero : blockByte 0x0123456789ABCDEF 0 = 0x01 := by decide

/-- V-RG3, and RK of R96. -/
theorem test_ldk :
    (after (exec .ldk { State.reset with dinKey := 0x0123456789ABCDEF4567 })).map
      (fun t => (t.doutKey, roundKey t.doutKey)) = some (0x0123456789ABCDEF4567, 0x0123456789ABCDEF) := by decide

/-- V-RG4. -/
theorem test_ark :
    result .ark (loaded 0 0x0123456789ABCDEF4567) = some (0x0123456789ABCDEF, 0x0123456789ABCDEF4567) := by decide

/-- V-RG8: accepted, then the model fault at its micro-step. -/
theorem test_ark_unloaded :
    ((after (exec .ark State.reset)).map fun t => t.status) = some 0b0001 ∧
    (((after (exec .ark State.reset)).bind fun t => after (coreStep t)).map fun t => t.mfault) =
      some (some .unloadedRead) := by decide

/-- V-SL3. -/
theorem test_sl_fwd : result (.sl .fwd) (loaded 0x0123456789ABCDEF 0) = some (0xC56B90AD3EF84712, 0) := by decide

/-- V-SL4. -/
theorem test_sl_inv : result (.sl .inv) (loaded 0xFEDCBA9876543210 0) = some (0xA970364BD21C8FE5, 0) := by decide

/-- V-PL10. -/
theorem test_pl : result .pl (loaded 0x0123456789ABCDEF 0) = some (0x00FF0F0F33335555, 0) := by decide

/-- V-PL7: bit 62 goes to bit 47. -/
theorem test_pl_bit : result .pl (loaded 0x4000000000000000 0) = some (0x0000800000000000, 0) := by decide

/-- V-KS2. -/
theorem test_ksf :
    result (.ksf 31) (loaded 0 0xFFFFFFFFFFFFFFFFFFFF) = some (0, 0x2FFFFFFFFFFFFFF07FFF) := by decide

/-- The sub-step trace of µKSF at r = 5; TSEL = INV does not matter (D18). -/
theorem test_ksf_ignores_tsel :
    result (.ksf 5) { loaded 0 0x0123456789ABCDEF4567 with tsel := .inv } =
      some (0, 0x18ACE02468ACF137F9BD) := by decide

/-- V-KS7. -/
theorem test_ksi :
    result (.ksi 5) (loaded 0 0x0123456789ABCDEF4567) = some (0, 0x2B3C4D5E6F6E2B3A891A) := by decide

/-- V-RD2. -/
theorem test_rnde :
    result (.rnde 17) (loaded 0xA5A5A5A5A5A5A5A5 0x13579BDF02468ACE1357) =
      some (0xCBD313C8799E0FF0, 0x426AE26AF37BE0405159) := by decide

/-- V-RD6. -/
theorem test_rndd :
    result (.rndd 17) (loaded 0xA5A5A5A5A5A5A5A5 0x13579BDF02468ACE1357) =
      some (0x65A01AA86AA015A8, 0xDEF8123456349ABF1ABC) := by decide

/-- R35: ENC at acceptance. -/
theorem test_enc_accepts :
    (after (exec .enc { State.reset with dinBlk := 0x0123456789ABCDEF, dinKey := 0x0123456789ABCDEF0123 })) =
      some { encrypting with dinBlk := 0x0123456789ABCDEF, dinKey := 0x0123456789ABCDEF0123 } := by decide

/-- V-EN1. -/
theorem test_encrypt : encryptFn defaultTables 0 0 = (0x5579C1387B228445, 0x6DAB31744F41D7008759) := by
  decide +kernel

/-- The end of the DEC trace of 95_test_vectors.md §2.7: D_FIN mixes the master key and completes. -/
theorem test_dec_finishes :
    (after (coreStep finishing)).map (fun t => (t.blk, t.rc, t.tsel, t.status)) =
      some (Reg.loaded 0, Reg.loaded 0, .inv, 0b0010) := by decide

/-- V-EN5 backwards (95_test_vectors.md §3.2). -/
theorem test_decrypt :
    decryptFn defaultTables 0xF8DD50531D973BDE 0x0123456789ABCDEF0123 =
      (0x0123456789ABCDEF, 0x0123456789ABCDEF0123) := by decide +kernel

/-! ### The status protocol and reset -/

/-- V-ST2: a reserved opcode while idle. -/
theorem test_illegal_issue :
    (after (step (State.reset.withFetchWord 16 0x000C))).map (fun t => t.status) = some 0b0110 := by decide

/-- V-ST4: an illegal word while busy is BUSY. -/
theorem test_busy_wins :
    (after (step (encrypting.withFetchWord 16 0x000C))).map (fun t => (t.status, t.phase)) =
      some (0b1001, .eRnd) := by decide

/-- V-ST7: reset while ENC runs. -/
theorem test_reset_aborts :
    (after (step { encrypting with schedule := [.assertRst] })).map
      (fun t => (t.status, t.blk.present, t.key.present, t.phase)) = some (0, false, false, .idle) := by decide

/-- 95_test_vectors.md §3.7: "The run has no end", and "reset is the only way out". -/
theorem test_unloaded_sl_stalls :
    after (step unloadedSl) = some stalled ∧ after (step stalled) = some stalled ∧
    (after (step { stalled with schedule := [.assertRst] })).map (fun t => (t.mfault, t.status)) = some (none, 0) := by
  decide

theorem test_broken_tables_refused : after (step { State.reset with rom := brokenTables }) = none := by decide

/-! ### Witnesses: the hypotheses of each statement can be met -/

theorem witness_DecodeAndEncodeAgree :
    decoded 0x0014 = some (.sl .inv) ∧ (Instr.ksf 1).wf = true ∧ (Instr.rndd 31).wf = true := by decide

theorem witness_OpcodeMapDecodes133Words :
    ⟨0x0006, 0xFC1F⟩ ∈ opcodeMap ∧ (0x0026 : CmdWord) &&& 0xFC1F = 0x0006 ∧
    1 ≤ ((0x0026 : CmdWord).extractLsb' 5 5).toNat ∧ (0x03E6 : CmdWord) &&& 0xFC1F = 0x0006 ∧
    1 ≤ ((0x03E6 : CmdWord).extractLsb' 5 5).toNat := by decide

theorem witness_AssemblerReadsEveryCommand : (Instr.rndd 31).wf = true ∧ (Instr.ksf 1).wf = true := by decide

theorem witness_AcceptanceActions :
    State.reset.busy = false ∧ roundOk 1 = true ∧ roundOk 31 = true := by decide

theorem witness_NopAndLoadsFinishAtOnce : (loaded 1 2).busy = false := by decide

theorem witness_StepRunsDecodedCommand :
    let s := State.reset.withFetchWord 16 0x0228
    lawfulTables s.rom = true ∧ s.rst = false ∧ s.schedule = .issue :: [] ∧ decoded s.cmd = some (.rnde 17) := by
  decide

theorem witness_PlacedWordRunsNext : lawfulTables encrypting.rom = true ∧ decoded 0x000B = some .dec := by decide

/-- One word for each cause of R202. -/
theorem witness_IllegalIssueOnlySetsErrAndDone :
    (([0x000C, 0x0400, 0x0010, 0x0020, 0x0006] : List CmdWord).all fun w =>
      let s := { State.reset with cmd := w, schedule := [.issue] }
      decide (lawfulTables s.rom = true ∧ s.rst = false ∧ s.busy = false ∧ s.schedule = .issue :: [] ∧
        IllegalByRule s.cmd)) = true := by decide

theorem witness_BusyIssueOnlySetsErr :
    let s := { encrypting with cmd := 0x0005, schedule := [.issue] }
    lawfulTables s.rom = true ∧ s.rst = false ∧ s.busy = true ∧ s.schedule = .issue :: [] := by decide

theorem witness_ZeroRoundOperandIsIllegal : State.reset.busy = false ∧ (Instr.rnde 0).wf = false := by decide

theorem witness_ErrChangesOnlyAtIssueOrReset :
    let s := { loaded 1 2 with cmd := 0x000C, schedule := [.issue] }
    (∃ t, step s = .next t) ∧ s.turn.resets = false ∧ s.turn = .issue ∧ s.rst = false ∧ s.busy = false :=
  ⟨⟨_, rfl⟩, rfl, rfl, rfl, rfl⟩

theorem witness_ArkMixesHighKeyBits :
    (loaded 1 2).Ready ∧ (loaded 1 2).blk.present = true ∧ (loaded 1 2).key.present = true := by decide

/-- Each clause: both registers absent, one absent, both loaded. -/
theorem witness_DatapathMicroOps :
    State.reset.blk.present = false ∧ (loaded 1 2).blk.present = true ∧ (loaded 1 2).key.present = true ∧
    { loaded 1 2 with key := Reg.absent 80 }.key.present = false ∧ 63 < 64 := by decide

theorem witness_SlSubstitutesEveryLane : (loaded 1 2).Ready ∧ (loaded 1 2).blk.present = true := by decide

theorem witness_LawfulTablesArePermutations :
    lawfulTables defaultTables = true ∧ lawfulTables { State.reset with rom := brokenTables }.rom = false := by decide

theorem witness_SubstitutionLayersAreInverse : lawfulTables { fwd := defaultSboxInv, inv := defaultSbox } = true := by
  decide

theorem witness_PlMovesEveryBit :
    (loaded 1 2).Ready ∧ (loaded 1 2).blk.present = true ∧ 0 < 64 ∧ 63 < 64 := by decide

theorem witness_PermutationHasOrderThree : permIndex 0 = 0 ∧ permIndex 62 = 47 ∧ permIndex 63 = 63 := by decide

theorem witness_KsfAndKsiStepTheKey :
    (loaded 1 2).Ready ∧ (loaded 1 2).key.present = true ∧ roundOk 1 = true ∧ roundOk 31 = true := by decide

/-- Bits 0, 14 and 79 and the ends 34 and 38 of the injected counter; bits 15 to 18 are the substituted nibble's. -/
theorem witness_ForwardStepBits :
    State.reset.key.present = false ∧ (loaded 1 2).key.present = true ∧
    (∀ n ∈ [0, 14, 19, 34, 38, 79], n < 80 ∧ (n + 61) % 80 < 76) ∧ (∀ n ∈ [15, 18], ¬(n + 61) % 80 < 76) := by
  decide

theorem witness_InverseStepBits :
    State.reset.key.present = false ∧ (loaded 1 2).key.present = true ∧ ∀ n ∈ [0, 75, 76, 79], n < 80 := by decide

theorem witness_ScheduleStepsAreInverse :
    lawfulTables defaultTables = true ∧ roundOk 1 = true ∧ roundOk 31 = true := by decide

theorem witness_RndeRunsOneForwardRound :
    (loaded 1 2).Ready ∧ (loaded 1 2).blk.present = true ∧ (loaded 1 2).key.present = true ∧ roundOk 31 = true := by
  decide

theorem witness_RnddRunsOneInverseRound :
    (loaded 1 2).Ready ∧ (loaded 1 2).blk.present = true ∧ (loaded 1 2).key.present = true ∧ roundOk 1 = true := by
  decide

theorem witness_DecryptAndEncryptRoundTrip : lawfulTables defaultTables = true := by decide

theorem witness_EncComputesEncrypt : State.reset.Ready := by decide

theorem witness_DecComputesDecrypt : State.reset.Ready ∧ lawfulTables State.reset.rom = true := by decide

/-- The hypotheses of the two run statements, for command word `w`, the turns `l` and `n` core turns in `l`. -/
abbrev RunHypotheses (w : CmdWord) (l : List Turn) (n : Nat) : Prop :=
  let s : State := { State.reset with cmd := w, schedule := .issue :: (l ++ [.core]) }
  lawfulTables s.rom = true ∧ s.Ready ∧ s.rst = false ∧ s.cmd = w ∧ s.schedule = .issue :: (l ++ [.core]) ∧
    (∀ x ∈ l, x.resets = false) ∧ l.count .core = n

theorem runHypotheses_issuing (w : CmdWord) (n : Nat) : RunHypotheses w (.issue :: List.replicate n .core) n := by
  refine ⟨witness_LawfulTablesArePermutations.1, ⟨rfl, rfl, rfl⟩, rfl, rfl, rfl, ?_, by simp⟩
  intro x hx
  rcases List.mem_cons.1 hx with rfl | hx
  · rfl
  · rw [List.eq_of_mem_replicate hx]; rfl

theorem runHypotheses_driving (w : CmdWord) (n : Nat) : RunHypotheses w (.driveBlk 5 :: List.replicate n .core) n := by
  refine ⟨witness_LawfulTablesArePermutations.1, ⟨rfl, rfl, rfl⟩, rfl, rfl, rfl, ?_, by simp⟩
  intro x hx
  rcases List.mem_cons.1 hx with rfl | hx
  · rfl
  · rw [List.eq_of_mem_replicate hx]; rfl

/-- A run in which the host issues once while ENC is running (95_test_vectors.md §3.6), and one in which it drives
`din_blk` instead. -/
theorem witness_EncResultWhateverTheHostDoes :
    RunHypotheses 0x000A (.issue :: List.replicate 124 .core) 124 ∧
    RunHypotheses 0x000A (.driveBlk 5 :: List.replicate 124 .core) 124 :=
  ⟨runHypotheses_issuing _ _, runHypotheses_driving _ _⟩

theorem witness_DecResultWhateverTheHostDoes :
    RunHypotheses 0x000B (.issue :: List.replicate 186 .core) 186 ∧
    RunHypotheses 0x000B (.driveBlk 5 :: List.replicate 186 .core) 186 :=
  ⟨runHypotheses_issuing _ _, runHypotheses_driving _ _⟩

/-- Every phase, SUB and end of the round count that a clause names. -/
theorem witness_EncSequencerMicroSteps :
    encrypting.mfault = none ∧ encrypting.blk.present = true ∧ encrypting.key.present = true ∧
    encrypting.phase = .eRnd ∧ encrypting.rc = ⟨1, true⟩ ∧ roundOk 1 = true ∧ encrypting.sub = 0 ∧
    encrypting.tsel = .fwd ∧
    (∀ n ∈ [(1 : BitVec 3), 2, 3], { encrypting with sub := n }.sub = n) ∧ (30 : Round).toNat < 31 ∧
    roundOk 31 = true ∧ { encrypting with sub := 3, rc := ⟨31, true⟩ }.rc = ⟨31, true⟩ ∧
    { encrypting with phase := .eFin }.phase = .eFin := by decide

theorem witness_DecSequencerMicroSteps :
    forwarding.mfault = none ∧ forwarding.blk.present = true ∧ forwarding.key.present = true ∧
    forwarding.phase = .dFf ∧ forwarding.rc = ⟨31, true⟩ ∧ roundOk 31 = true ∧
    { forwarding with rc := ⟨1, true⟩ }.rc = ⟨1, true⟩ ∧ roundOk 1 = true ∧ (1 : Round).toNat < 31 ∧
    (∀ n ∈ [(0 : BitVec 3), 1, 2, 3, 4], { finishing with phase := .dRnd, rc := ⟨1, true⟩, sub := n }.sub = n) ∧
    { finishing with phase := .dRnd }.tsel = .inv ∧ 1 < (2 : Round).toNat ∧
    finishing.mfault = none ∧ finishing.blk.present = true ∧ finishing.key.present = true ∧
    finishing.phase = .dFin := by decide

theorem witness_PrimitiveMicroStep :
    unloadedSl.mfault = none ∧ unloadedSl.phase = .prim ∧ (Instr.sl .fwd).wf = true ∧
    unloadedSl.cmdl = ⟨encode (.sl .fwd), true⟩ ∧ primOps (.sl .fwd) = some [.sub] ∧
    [MicroOp.sub][unloadedSl.sub.toNat]? = some .sub ∧ MicroOp.sub.run unloadedSl = none ∧
    (MicroOp.sub.run { unloadedSl with blk := ⟨5, true⟩ }).isSome = true ∧
    (State.reset.phase = .idle ∧ ∃ t, coreStep State.reset = .next t) ∧
    unloadedSl.phase ≠ .idle ∧ ∃ t, coreStep unloadedSl = .next t :=
  ⟨by decide, by decide, by decide, by decide, by decide, by decide, by decide, by decide, ⟨rfl, _, rfl⟩, by decide,
    _, rfl⟩

theorem witness_ByteZeroIsMostSignificant : 0 < 64 ∧ 63 < 64 := by decide

theorem witness_KeyByteZeroIsMostSignificant : 0 < 80 ∧ 79 < 80 := by decide

theorem witness_EveryCommandEndsAfterItsMicroSteps :
    (loaded 1 2).Ready ∧ (loaded 1 2).blk.present = true ∧ (loaded 1 2).key.present = true ∧
    Instr.dec.wf = true ∧ 186 < microSteps .dec := by decide

theorem witness_encrypting_inv : encrypting.Inv := by
  constructor <;> first
    | decide
    | (intro h; cases h)

theorem witness_finishing_inv : finishing.Inv := by
  constructor <;> first
    | decide
    | (intro h; cases h)

theorem witness_BusyCoreEndsItsCommand :
    encrypting.Inv ∧ encrypting.busy = true ∧ encrypting.mfault = none ∧ encrypting.blk.present = true ∧
    encrypting.key.present = true ∧ 124 < encrypting.remaining :=
  ⟨witness_encrypting_inv, by decide⟩

theorem witness_EncAndDecNeverFault :
    (encrypting.Inv ∧ encrypting.phase.isCipher = true) ∧ finishing.Inv ∧ finishing.phase.isCipher = true :=
  ⟨⟨witness_encrypting_inv, by decide⟩, witness_finishing_inv, by decide⟩

theorem witness_MicroStepFrame :
    (∃ t, coreStep unloadedSl = .next t ∧ unloadedSl.mfault = none ∧ t.mfault ≠ none) ∧ unloadedSl.phase = .prim :=
  ⟨⟨_, rfl, by decide⟩, rfl⟩

/-- ENC's issue writes both data registers; E_FIN's kind of core turn writes BLK. -/
theorem witness_OnlyNamedEventsWriteBlkAndKey :
    (let s := { State.reset with cmd := 0x000A, schedule := [.issue] }
     ∃ t, step s = .next t ∧ s.turn.resets = false ∧ t.blk ≠ s.blk ∧ t.key ≠ s.key) ∧
    (let s := { encrypting with schedule := [.core] }
     ∃ t, step s = .next t ∧ s.turn.resets = false ∧ t.blk ≠ s.blk) :=
  ⟨⟨_, rfl, by decide⟩, ⟨_, rfl, by decide⟩⟩

/-- The issue of `sl inv` writes TSEL and CMDL, that of ENC writes RC, and the end of fast-forward writes TSEL. -/
theorem witness_OnlyNamedEventsWriteHiddenRegisters :
    (let s := { State.reset with cmd := 0x0014, schedule := [.issue] }
     ∃ t, step s = .next t ∧ s.turn.resets = false ∧ t.tsel ≠ s.tsel ∧ t.cmdl ≠ s.cmdl) ∧
    (let s := { State.reset with cmd := 0x000A, schedule := [.issue] }
     ∃ t, step s = .next t ∧ s.turn.resets = false ∧ t.rc ≠ s.rc) ∧
    (∃ t, step forwarding = .next t ∧ forwarding.turn.resets = false ∧ t.tsel ≠ forwarding.tsel) :=
  ⟨⟨_, rfl, by decide⟩, ⟨_, rfl, by decide⟩, ⟨_, rfl, by decide⟩⟩

theorem witness_InputsSampledOnlyAtLoads :
    Instr.ark ≠ .ldb ∧ Instr.ark ≠ .ldk ∧ Instr.ark ≠ .enc ∧ Instr.ark ≠ .dec := by decide

theorem witness_CoreTurnIsAMicroStep :
    lawfulTables State.reset.rom = true ∧ State.reset.schedule = [] ∧ State.reset.Ready ∧ stalled.mfault ≠ none ∧
    { encrypting with schedule := [.core] }.schedule = .core :: [] := by decide

theorem witness_HostTurnsLeaveTheCoreAlone :
    lawfulTables encrypting.rom = true ∧
    ∀ turn ∈ [Turn.driveCmd 1, .driveBlk 2, .driveKey 3, .readOutputs, .releaseRst],
      { encrypting with schedule := [turn] }.schedule = turn :: [] := by decide

theorem witness_StatusWordFields :
    encrypting.Inv ∧ encrypting.status.extractLsb' 0 1 = 1 ∧ encrypting.phase ≠ .idle :=
  ⟨witness_encrypting_inv, by decide⟩

theorem witness_OutputsEqualLoadedRegisters :
    (loaded 1 2).blk.present = true ∧ (loaded 1 2).key.present = true := by decide

theorem witness_ResetWinsFromAnyState :
    (∀ turn ∈ [Turn.assertRst, .assertRstAndIssue],
      lawfulTables stalled.rom = true ∧ { stalled with schedule := [turn] }.schedule = turn :: []) ∧
    (let s := { stalled with schedule := [.assertRst] }
     ∃ t, step s = .next t ∧ s.mfault ≠ none ∧ t.mfault = none) ∧
    (let s := { State.reset with rst := true, cmd := 0x000A, schedule := [.issue] }
     lawfulTables s.rom = true ∧ s.rst = true ∧ s.schedule = .issue :: []) :=
  ⟨by decide, ⟨_, rfl, by decide⟩, by decide⟩

/-- BLK absent under `sl fwd`; KEY alone absent under `ksf 31`; the two clauses meet in ARK with both absent. -/
theorem witness_PrimitiveBeforeLoadFaults :
    State.reset.Ready ∧ (Instr.sl .fwd).wf = true ∧ (primOps (.sl .fwd)).isSome ∧ State.reset.blk.present = false ∧
    Instr.sl .fwd ∉ roundsUp.map Instr.ksf ++ roundsUp.map Instr.ksi ∧
    (let s := { State.reset with blk := Reg.loaded 5 }
     s.Ready ∧ (Instr.ksf 31).wf = true ∧ (primOps (.ksf 31)).isSome ∧ s.key.present = false ∧
       (∀ t, Instr.ksf 31 ≠ .sl t) ∧ Instr.ksf 31 ≠ .pl) := by
  refine ⟨by decide, by decide, by decide, by decide, by decide, by decide, by decide, by decide, by decide, ?_,
    by decide⟩
  intro t h
  cases h

theorem witness_StepKeepsInvariant : encrypting.Inv ∧ ∃ t, step encrypting = .next t :=
  ⟨witness_encrypting_inv, _, rfl⟩

theorem witness_stalled_inv : stalled.Inv where
  busy_iff := by decide
  busy_not_done := by decide
  prim_index := fun _ => ⟨[.sub], rfl, Nat.zero_lt_one⟩
  prim_table := by intro _ c t h; cases h; intro h; cases h; rfl
  enc_round := by decide
  enc_final := by decide
  dec_forward := by decide
  dec_round := by decide
  dec_final := by decide
  seeded := by decide
  faulted := fun _ => ⟨rfl, .inl rfl⟩
  held := by decide

theorem witness_ResetKeepsTheInputPorts :
    let s := { encrypting with dinBlk := 7, schedule := [.assertRstAndIssue] }
    s.turn.resets = true ∧ ∃ t, step s = .next t := ⟨rfl, _, rfl⟩

theorem witness_UnloadedReadFaultsUntilReset :
    MicroOp.sub.run unloadedSl = none ∧
    (∃ t, coreStep unloadedSl = .next t ∧ unloadedSl.mfault = none ∧ t.mfault ≠ none) ∧
    (stalled.Inv ∧ stalled.mfault = some .unloadedRead ∧ ∃ t, coreStep stalled = .next t) ∧
    (let s := { stalled with schedule := [.readOutputs] }
     ∃ t, step s = .next t ∧ s.mfault ≠ none) :=
  ⟨by decide, ⟨_, rfl, by decide⟩, ⟨witness_stalled_inv, rfl, _, rfl⟩, ⟨_, rfl, by decide⟩⟩

theorem witness_StepNeverStops :
    (encrypting.Inv ∧ lawfulTables encrypting.rom = true) ∧ stalled.Inv ∧ lawfulTables stalled.rom = true :=
  ⟨⟨witness_encrypting_inv, by decide⟩, witness_stalled_inv, by decide⟩

theorem witness_TablesAreCheckedAndConstant :
    lawfulTables brokenTables = false ∧ ∃ t, step encrypting = .next t := ⟨by decide, _, rfl⟩

end Sys2Proof.Tests
end

section
/-! Proofs about the state, acceptance and the micro-step of a primitive command (10_state.md): the encoder's fields
and its round trip, what CMDL latches, one equation for a step in PRIM, and from them O7 and O38. -/

namespace Sys2Proof.Machine

/-! ### The word of a command reads back as the command -/

/-! R82 puts OP, T and R at bits 0, 4 and 5; a bit of a field of the word is in range of one of the three operands and
past the width of the others (R70). -/

@[simp] theorem opField_encode (i : Instr) : opField (encode i) = i.op := by
  ext k hk
  have h5 : k < 5 := by omega
  have h16 : k < 16 := by omega
  simp [opField, encode, hk, h5, h16]

@[simp] theorem tField_encode (i : Instr) : tField (encode i) = i.tBit := by
  ext k hk
  obtain rfl : k = 0 := by omega
  simp [tField, encode]

@[simp] theorem rField_encode (i : Instr) : rField (encode i) = i.round := by
  ext k hk
  have hop : i.op.getLsbD (5 + k) = false := BitVec.getLsbD_of_ge _ _ (by omega)
  have ht : i.tBit.getLsbD (5 + k - 4) = false := BitVec.getLsbD_of_ge _ _ (by omega)
  have h16 : 5 + k < 16 := by omega
  simp [rField, encode, hop, ht, h16, BitVec.getLsbD_eq_getElem hk]

@[simp] theorem rsvdField_encode (i : Instr) : rsvdField (encode i) = 0 := by
  ext k hk
  have hop : i.op.getLsbD (10 + k) = false := BitVec.getLsbD_of_ge _ _ (by omega)
  have ht : i.tBit.getLsbD (10 + k - 4) = false := BitVec.getLsbD_of_ge _ _ (by omega)
  have hr : i.round.getLsbD (10 + k - 5) = false := BitVec.getLsbD_of_ge _ _ (by omega)
  simp [rsvdField, encode, hop, ht, hr]

/-- The fields of a command name the command, whatever its operands (R71). -/
theorem commandOf_fields (i : Instr) : commandOf i.op i.tBit i.round = some i := by
  cases i with
  | sl t => cases t <;> rfl
  | _ => rfl

/-- R82: the word of a well-formed command decodes to the command. Of the checks of R81 only the one on R = 0 needs the
command to be well formed. -/
theorem decode_encode {i : Instr} (h : i.wf = true) : decode (encode i) = .ok i := by
  have reserved : ¬ 12 ≤ i.op.toNat := by cases i <;> simp [Instr.op]
  have table : ¬ (i.tBit = 1 ∧ i.op ≠ 4) := by cases i <;> simp [Instr.tBit, Instr.op]
  have zero : ¬ (usesRound i.op = true ∧ i.round = 0) := by
    cases i <;> simp_all [usesRound, Instr.op, Instr.round, Instr.wf, roundOk]
  have misplaced : ¬ (usesRound i.op = false ∧ i.round ≠ 0) := by
    cases i <;> simp [usesRound, Instr.op, Instr.round]
  simp only [decode, rsvdField_encode, opField_encode, tField_encode, rField_encode, commandOf_fields, ne_eq,
    not_true_eq_false, if_false]
  rw [if_neg reserved, if_neg table, if_neg zero, if_neg misplaced]

/-! ### The core's micro-step -/

theorem latched_encode {s : State} {c : Instr} (hc : c.wf = true) (hl : s.cmdl = Reg.loaded (encode c)) :
    s.latched = some c := by
  simp [State.latched, hl, decode_encode hc]

/-- L(CMDL) is the list of the command whose word CMDL holds (R27, R37). -/
theorem latchedOps_encode {s : State} {c : Instr} (hc : c.wf = true) (hl : s.cmdl = Reg.loaded (encode c)) :
    s.latchedOps = primOps c := by
  rw [latchedOps_eq, latched_encode hc hl, Option.bind_some]

/-- R37, R213: the turn of an idle core passes. -/
theorem coreStep_idle {s : State} (hp : s.phase = .idle) : coreStep s = .next s := by
  cases hf : s.mfault <;> simp [coreStep, hf, hp]

/-- An unfaulted core in PRIM performs L(CMDL)[SUB] (R37). -/
theorem coreStep_prim {s : State} {ops : List MicroOp} {m : MicroOp} (hf : s.mfault = none) (hp : s.phase = .prim)
    (hl : s.latchedOps = some ops) (hm : ops[s.sub.toNat]? = some m) :
    coreStep s = perform m s (primMove ops) := by
  simp [coreStep, hf, hp, primStep, hl, performAt_some hm]

/-- The move after the micro-op, from the state before it: a micro-op leaves SUB as it was. -/
theorem primMove_of_run {s u : State} {m : MicroOp} (h : m.run s = some u) (ops : List MicroOp) :
    primMove ops u = if s.sub.toNat + 1 = ops.length
      then { u with phase := .idle, busy := false, done := true }
      else { u with sub := s.sub + 1 } := by
  obtain ⟨-, -, -, hsub, -⟩ := MicroOp.run_fields h
  rw [primMove, ← hsub]
  rfl

/-! The sequencer's move after a micro-op touches neither data register. -/

theorem primMove_data (ops : List MicroOp) (u : State) :
    (primMove ops u).blk = u.blk ∧ (primMove ops u).key = u.key := by
  unfold primMove; split_ifs <;> simp

theorem encryptMove_data (r : Round) (u : State) :
    (encryptMove r u).blk = u.blk ∧ (encryptMove r u).key = u.key := by
  unfold encryptMove; split_ifs <;> simp

theorem fastForwardMove_data (r : Round) (u : State) :
    (fastForwardMove r u).blk = u.blk ∧ (fastForwardMove r u).key = u.key := by
  unfold fastForwardMove; split_ifs <;> simp

theorem decryptMove_data (r : Round) (u : State) :
    (decryptMove r u).blk = u.blk ∧ (decryptMove r u).key = u.key := by
  unfold decryptMove; split_ifs <;> simp

/-- R37: a move of a core that is not idle is one micro-op: it raises the model fault, or BLK and KEY are what it
leaves. -/
theorem CoreMove.performs_microOp {s t : State} (h : CoreMove s t) (hp : s.phase ≠ .idle) :
    ∃ m : MicroOp, (m.run s = none ∧ t.mfault ≠ none) ∨ ∃ u, m.run s = some u ∧ t.blk = u.blk ∧ t.key = u.key := by
  cases h with
  | wait hidle => exact absurd hidle hp
  | unloaded m _ hr => exact ⟨m, .inl ⟨hr, by simp⟩⟩
  | prim ops m u _ _ _ hr => exact ⟨m, .inr ⟨u, hr, primMove_data ops u⟩⟩
  | encrypt r m u _ _ _ hr => exact ⟨m, .inr ⟨u, hr, encryptMove_data r u⟩⟩
  | forward r u _ _ hr => exact ⟨.ksf r, .inr ⟨u, hr, fastForwardMove_data r u⟩⟩
  | decrypt r m u _ _ _ hr => exact ⟨m, .inr ⟨u, hr, decryptMove_data r u⟩⟩
  | final u _ hr => exact ⟨.ark, .inr ⟨u, hr, rfl, rfl⟩⟩

/-- Settles O38: an idle core waits, every other move is one micro-op, and in PRIM the step is that of `coreStep_prim`,
split on whether L(CMDL)[SUB] raises the model fault. -/
theorem primitiveMicroStep : Obligations.PrimitiveMicroStep := by
  unfold Obligations.PrimitiveMicroStep
  refine ⟨⟨rfl, fun _ => rfl, rfl, fun _ => rfl, fun _ => rfl, fun _ => rfl, fun _ => rfl⟩,
    fun s t hp h => ?_, fun s t hp hf h => ?_, fun s c ops m hf hp hc hl ho hm => ?_⟩
  · rw [coreStep_idle hp] at h
    exact (Host.Outcome.next.inj h).symm
  · obtain ⟨hf', -⟩ | ⟨-, hmove⟩ := coreStep_next h
    · exact absurd hf hf'
    · exact hmove.performs_microOp hp
  · have hstep : coreStep s = perform m s (primMove ops) :=
      coreStep_prim hf hp ((latchedOps_encode hc hl).trans ho) hm
    refine ⟨fun hr => ⟨s.raiseModelFault, hstep.trans (perform_none hr _), rfl, fun u hu => ?_⟩, fun u hr => ?_⟩
    · rw [coreStep_faulted (by simp)] at hu
      exact (Host.Outcome.next.inj hu).symm
    · rw [hstep, perform_some hr, primMove_of_run hr]

/-! ### Acceptance -/

/-- A well-formed command issued on an idle core is accepted (R34, R35). -/
theorem exec_accepted {i : Instr} {s : State} (hw : i.wf = true) (hb : s.busy = false) :
    exec i s = .next (acceptance i s.clearStatus) :=
  (exec_wf hw s).trans (issueCheck_idle hb _)

/-- Settles O7: the issue check passes for each of the 12 commands, and what is left is its `acceptance`, read field by
field. -/
theorem acceptanceActions : Obligations.AcceptanceActions := by
  intro s t r hb hr
  exact ⟨exec_accepted rfl hb, exec_accepted rfl hb, exec_accepted rfl hb, exec_accepted rfl hb,
    exec_accepted rfl hb, exec_accepted rfl hb, exec_accepted hr hb, exec_accepted hr hb,
    exec_accepted hr hb, exec_accepted hr hb, exec_accepted rfl hb, exec_accepted rfl hb⟩

end Sys2Proof.Machine
end

section
/-! Proofs about the byte view of the data registers (20_memory.md §2): buffer byte 0 is the most significant byte of
the value, for a value of any whole number of bytes, and from it O50. -/

namespace Sys2Proof.Machine

/-! ### The bits of a value and of its bytes -/

/-- `set_bit` (R54). -/
theorem getLsbD_setBit {w n : Nat} (hn : n < w) (v : BitVec w) (m : Nat) :
    (setBit v n).getLsbD m = (decide (m = n) || v.getLsbD m) := by
  rw [setBit, ← BitVec.twoPow_eq, BitVec.getLsbD_or, BitVec.getLsbD_twoPow, decide_eq_true hn, Bool.true_and,
    Bool.or_comm, decide_eq_decide.mpr eq_comm]

/-- A bit of a value is the bit, at its index mod 8, of the byte that holds it. -/
theorem getLsbD_byte {w : Nat} (v : BitVec w) (p : Nat) :
    (v.extractLsb' (8 * (p / 8)) 8).getLsbD (p % 8) = v.getLsbD p := by
  rw [BitVec.getLsbD_extractLsb', decide_eq_true (Nat.mod_lt p (by decide)), Bool.true_and, Nat.div_add_mod]

/-! ### The value as a sum over its bytes -/

/-- The last n bytes of a number, least significant first. -/
theorem mod_eq_sum_bytes (x n : Nat) :
    x % 2 ^ (8 * n) = ∑ i ∈ Finset.range n, x >>> (8 * i) % 2 ^ 8 * 2 ^ (8 * i) := by
  induction n with
  | zero => simp [Nat.mod_one]
  | succ n ih =>
    rw [Finset.sum_range_succ, ← ih, pow_mul, Nat.mod_pow_succ, ← pow_mul, Nat.shiftRight_eq_div_pow,
      mul_comm (2 ^ (8 * n))]

/-- The byte at place `n - 1 - j` from the least significant end is byte j of the buffer (R51). -/
theorem toNat_eq_sum_bytes {n : Nat} (v : BitVec (8 * n)) :
    v.toNat = ∑ j : Fin n, (v.extractLsb' (8 * (n - 1 - j.val)) 8).toNat * 2 ^ (8 * (n - 1 - j.val)) := by
  calc v.toNat = v.toNat % 2 ^ (8 * n) := (Nat.mod_eq_of_lt v.isLt).symm
    _ = ∑ i ∈ Finset.range n, (v.extractLsb' (8 * i) 8).toNat * 2 ^ (8 * i) := by
      simp only [mod_eq_sum_bytes, BitVec.extractLsb'_toNat]
    _ = ∑ j ∈ Finset.range n, (v.extractLsb' (8 * (n - 1 - j)) 8).toNat * 2 ^ (8 * (n - 1 - j)) :=
      (Finset.sum_range_reflect _ n).symm
    _ = _ := Finset.sum_range _

/-! ### The value that carries a buffer -/

theorem bigEndian_concat (w : Nat) (bytes : List Byte) (b : Byte) :
    bigEndian w (bytes ++ [b]) = (bigEndian w bytes <<< 8) ||| b.zeroExtend w := by
  simp [bigEndian]

/-- Counted from the last byte of the buffer, byte i holds bits 8i to 8i + 7; past the first byte the value is 0. -/
theorem getLsbD_bigEndian {w : Nat} (bytes : List Byte) :
    ∀ {p : Nat}, p < w → (bigEndian w bytes).getLsbD p = (bytes.reverse.getD (p / 8) 0).getLsbD (p % 8) := by
  induction bytes using List.reverseRecOn with
  | nil => simp [bigEndian]
  | append_singleton bytes b ih =>
    intro p hp
    rw [bigEndian_concat, List.reverse_concat]
    by_cases hlast : p < 8
    · simp [hlast, hp, Nat.div_eq_of_lt hlast, Nat.mod_eq_of_lt hlast]
    · have hdiv : p / 8 = (p - 8) / 8 + 1 := by omega
      have hmod : p % 8 = (p - 8) % 8 := by omega
      have hb : b.getLsbD p = false := BitVec.getLsbD_of_ge _ _ (by omega)
      rw [hdiv, hmod, List.getD_cons_succ, ← ih (by omega)]
      have hlt : p - 8 < w := by omega
      simp [hlast, hp, hb, BitVec.getLsbD_eq_getElem hlt]

/-- Each byte of a buffer has its place in the value (R51, R53). -/
theorem extractLsb'_bigEndian {n : Nat} (bytes : Vector Byte n) (j : Fin n) :
    (bigEndian (8 * n) bytes.toList).extractLsb' (8 * (n - 1 - j.val)) 8 = bytes[j] := by
  have place : bytes.toList.reverse.getD (n - 1 - j.val) 0 = bytes[j] := by
    have hlen : n - 1 - j.val < bytes.toList.reverse.length := by simp; omega
    rw [List.getD_eq_getElem _ _ hlen, List.getElem_reverse]
    simp [show n - 1 - (n - 1 - j.val) = j.val by omega]
  apply BitVec.eq_of_getLsbD_eq
  intro k hk
  have hdiv : (8 * (n - 1 - j.val) + k) / 8 = n - 1 - j.val := by omega
  have hmod : (8 * (n - 1 - j.val) + k) % 8 = k := by omega
  rw [BitVec.getLsbD_extractLsb', decide_eq_true hk, Bool.true_and, getLsbD_bigEndian _ (by omega), hdiv, hmod, place]

/-! ### The block -/

/-- Byte j of a block is the byte at place `7 - j` from the least significant end (R51). -/
theorem blockByte_eq (b : Block) (j : Fin 8) : blockByte b j = b.extractLsb' (8 * (7 - j.val)) 8 := by
  rw [blockByte, Nat.mul_sub]

theorem blockByte_xorWith (a b : Block) (j : Fin 8) :
    blockByte (xorWith a b) j = blockByte a j ^^^ blockByte b j :=
  BitVec.extractLsb'_xor

/-- Settles O50: the byte at place `7 - j` is byte j, so the bit map, the sum and the buffer's value are those of a
value of 8 bytes. -/
theorem byteZeroIsMostSignificant : Obligations.ByteZeroIsMostSignificant := by
  unfold Obligations.ByteZeroIsMostSignificant
  refine ⟨fun b n hn => ?bit, fun _ _ => rfl, fun b => ?sum, fun bytes j => ?buffer,
    fun w n m v hn => ⟨rfl, getLsbD_setBit hn v m⟩, blockByte_xorWith, fun _ _ _ => rfl⟩
  case bit =>
    have hplace : 7 - (7 - n / 8) = n / 8 := by omega
    rw [blockByte_eq, hplace, getLsbD_byte]
  case sum =>
    simp only [blockByte_eq]
    exact toNat_eq_sum_bytes (n := 8) b
  case buffer =>
    rw [blockByte_eq]
    exact extractLsb'_bigEndian bytes j

end Sys2Proof.Machine
end

section
/-! Proofs about the encoding (30_encoding.md): which words the decoder refuses, which words select a row of the opcode
map, field by field, and how the assembler expands the pseudo-commands; from them O3 and O6. -/

namespace Sys2Proof.Machine

/-! ### The decoder's refusals -/

/-- The opcodes with a round operand, as a list (R76, R81). -/
theorem usesRound_iff_mem (op : BitVec 4) : usesRound op = true ↔ op ∈ ([6, 7, 8, 9] : List (BitVec 4)) := by
  simp [usesRound, or_assoc]

theorem not_usesRound_iff_not_mem (op : BitVec 4) :
    usesRound op = false ↔ op ∉ ([6, 7, 8, 9] : List (BitVec 4)) := by
  rw [← usesRound_iff_mem, Bool.not_eq_true]

/-- Every opcode below 12 names a command, whatever the operand fields (R71). -/
theorem commandOf_of_lt {op : BitVec 4} (h : op.toNat < 12) (t : BitVec 1) (r : Round) :
    ∃ i, commandOf op t r = some i := by
  unfold commandOf
  generalize op.toNat = n at h
  interval_cases n <;> exact ⟨_, rfl⟩

/-- R76, R77: each check of R81 that fires is one cause of the rule, and a word that passes them all names a command. -/
theorem decode_refuses_iff (w : CmdWord) : (∃ e, decode w = .error e) ↔ IllegalByRule w := by
  unfold decode
  split_ifs with reserved opcode table zero misplaced
  · exact iff_of_true ⟨_, rfl⟩ (.inr (.inl reserved))
  · exact iff_of_true ⟨_, rfl⟩ (.inl opcode)
  · exact iff_of_true ⟨_, rfl⟩ (.inr (.inr (.inl table)))
  · exact iff_of_true ⟨_, rfl⟩ (.inr (.inr (.inr (.inr ⟨zero.2, (usesRound_iff_mem _).1 zero.1⟩))))
  · exact iff_of_true ⟨_, rfl⟩
      (.inr (.inr (.inr (.inl ⟨misplaced.2, (not_usesRound_iff_not_mem _).1 misplaced.1⟩))))
  · obtain ⟨i, hi⟩ := commandOf_of_lt (Nat.lt_of_not_le opcode) (tField w) (rField w)
    rw [hi]
    refine iff_of_false (fun ⟨_, he⟩ => nomatch he) ?_
    rintro (h | h | h | ⟨hr, hop⟩ | ⟨hr, hop⟩)
    · exact opcode h
    · exact reserved h
    · exact table h
    · exact misplaced ⟨(not_usesRound_iff_not_mem _).2 hop, hr⟩
    · exact zero ⟨(usesRound_iff_mem _).2 hop, hr⟩

/-! ### The masks of the opcode map -/

/-- The four fields of R70 cover the word. -/
theorem eq_iff_fields (v w : CmdWord) :
    v = w ↔ opField v = opField w ∧ tField v = tField w ∧ rField v = rField w ∧ rsvdField v = rsvdField w := by
  refine ⟨fun h => h ▸ ⟨rfl, rfl, rfl, rfl⟩, fun ⟨hop, ht, hr, hrsvd⟩ => BitVec.eq_of_toNat_eq ?_⟩
  simp only [opField, tField, rField, rsvdField, ← BitVec.toNat_inj, BitVec.extractLsb'_toNat,
    Nat.shiftRight_eq_div_pow] at hop ht hr hrsvd
  omega

/-- The row of R75 that has an opcode. -/
def rowOf (op : BitVec 4) : OpcodeRow := opcodeMap.getD op.toNat ⟨0x0000, 0xFFFF⟩

theorem mem_opcodeMap_iff (row : OpcodeRow) : row ∈ opcodeMap ↔ ∃ op : BitVec 4, op.toNat < 12 ∧ rowOf op = row := by
  constructor
  · intro h
    obtain ⟨n, hn, rfl⟩ := List.getElem_of_mem h
    have h12 : n < 12 := hn
    have hval : (BitVec.ofNat 4 n).toNat = n := Nat.mod_eq_of_lt (by omega)
    exact ⟨BitVec.ofNat 4 n, hval.symm ▸ h12, by rw [rowOf, hval, List.getD_eq_getElem _ _ hn]⟩
  · rintro ⟨op, hop, rfl⟩
    have hlen : op.toNat < opcodeMap.length := hop
    rw [rowOf, List.getD_eq_getElem _ _ hlen]
    exact List.getElem_mem hlen

/-- R75: a row asks for its own opcode and RSVD = 0, for T = 0 save on SL, and for R = 0 save on an opcode with a round
operand. -/
theorem rowOf_fields :
    ∀ op : BitVec 4, op.toNat < 12 →
      (opField (rowOf op).pattern = op ∧ tField (rowOf op).pattern = 0 ∧
        rField (rowOf op).pattern = 0 ∧ rsvdField (rowOf op).pattern = 0) ∧
      (opField (rowOf op).mask = BitVec.allOnes 4 ∧ tField (rowOf op).mask = (if op = 4 then 0 else BitVec.allOnes 1) ∧
        rField (rowOf op).mask = (if usesRound op = true then 0 else BitVec.allOnes 5) ∧
        rsvdField (rowOf op).mask = BitVec.allOnes 6) := by
  decide

/-- A field under a mask of all zeros or all ones. -/
theorem and_mask_eq_zero_iff {n : Nat} (v : BitVec n) (p : Prop) [Decidable p] :
    v &&& (if p then 0 else BitVec.allOnes n) = 0 ↔ (v ≠ 0 → p) := by
  by_cases h : p <;> simp [h]

/-- A word selects the row of an opcode exactly when it has that opcode and breaks none of the clauses (a) to (c) of R76
for it. -/
theorem selects_rowOf_iff {op : BitVec 4} (hop : op.toNat < 12) (w : CmdWord) :
    w &&& (rowOf op).mask = (rowOf op).pattern ↔
      opField w = op ∧ (tField w ≠ 0 → op = 4) ∧ (rField w ≠ 0 → usesRound op = true) ∧ rsvdField w = 0 := by
  obtain ⟨⟨pOp, pT, pR, pRsvd⟩, mOp, mT, mR, mRsvd⟩ := rowOf_fields op hop
  have andOp : opField (w &&& (rowOf op).mask) = opField w := by
    rw [opField, BitVec.extractLsb'_and, ← opField, ← opField, mOp, BitVec.and_allOnes]
  have andT : tField (w &&& (rowOf op).mask) = tField w &&& (if op = 4 then 0 else BitVec.allOnes 1) := by
    rw [← mT]; exact BitVec.extractLsb'_and
  have andR : rField (w &&& (rowOf op).mask) = rField w &&& (if usesRound op = true then 0 else BitVec.allOnes 5) := by
    rw [← mR]; exact BitVec.extractLsb'_and
  have andRsvd : rsvdField (w &&& (rowOf op).mask) = rsvdField w := by
    rw [rsvdField, BitVec.extractLsb'_and, ← rsvdField, ← rsvdField, mRsvd, BitVec.and_allOnes]
  rw [eq_iff_fields, andOp, andT, andR, andRsvd, pOp, pT, pR, pRsvd, and_mask_eq_zero_iff, and_mask_eq_zero_iff]

theorem bit_ne_zero_iff : ∀ t : BitVec 1, t ≠ 0 ↔ t = 1 := by decide

/-- Settles O3: the decoder's refusals are the causes of the rule, and the one row that a word can select is that of its
own opcode. -/
theorem illegalWordsAreExactlyTheListed : Obligations.IllegalWordsAreExactlyTheListed := by
  refine ⟨decode_refuses_iff, fun w => ?_⟩
  constructor
  · rintro ⟨row, hrow, hsel⟩
    obtain ⟨op, hop, rfl⟩ := (mem_opcodeMap_iff row).1 hrow
    obtain ⟨rfl, ht, hr, hrsvd⟩ := (selects_rowOf_iff hop w).1 hsel
    exact ⟨hop, hrsvd, fun h => ht ((bit_ne_zero_iff _).2 h), fun h => (usesRound_iff_mem _).1 (hr h)⟩
  · rintro ⟨hop, hrsvd, ht, hr⟩
    exact ⟨rowOf (opField w), (mem_opcodeMap_iff _).2 ⟨opField w, hop, rfl⟩, (selects_rowOf_iff hop w).2
      ⟨rfl, fun h => ht ((bit_ne_zero_iff _).1 h), fun h => (usesRound_iff_mem _).2 (hr h), hrsvd⟩⟩

/-! ### The assembler -/

/-- A program text of one line assembles to the words of the line's expansion (R80, R82). -/
theorem assemble_line {line : List Char} {l : AsmLine} (h : parseLine line = .ok (some l)) :
    assemble [line] = .ok (l.expand.map encode) := by
  simp [assemble, h]

/-- The round operands counting down (R73). -/
theorem roundsUp_reverse : roundsUp.reverse = (List.range 31).map fun n => BitVec.ofNat 5 (31 - n) := by
  decide

/-- Settles O6: each name is read as its pseudo-command, and the words are those of the expansion. -/
theorem pseudoCommandsExpand : Obligations.PseudoCommandsExpand := by
  have pli : parseLine ['p', 'l', 'i'] = .ok (some .pli) := by decide
  have kff : parseLine ['k', 'f', 'f'] = .ok (some .kff) := by decide
  have krw : parseLine ['k', 'r', 'w'] = .ok (some .krw) := by decide
  have arkFinal : parseLine ['a', 'r', 'k', '_', 'f', 'i', 'n', 'a', 'l'] = .ok (some .arkFinal) := by decide
  refine ⟨assemble_line pli, (assemble_line kff).trans ?_, (assemble_line krw).trans ?_, assemble_line arkFinal⟩
  · simp only [AsmLine.expand, roundsUp, List.map_map, Function.comp_def]
  · simp only [AsmLine.expand, roundsUp_reverse, List.map_map, Function.comp_def]

end Sys2Proof.Machine
end

section
/-! Proofs about the datapath micro-ops µARK, µSUB and µPERM (40_register_ops.md, 41_substitution.md,
42_permutation.md): when each raises the model fault, which bits of the permuted block are 1, and from them O15. -/

namespace Sys2Proof.Machine

/-! ### A micro-op on an absent register -/

theorem microArk_eq_none {s : State} (h : s.blk.present = false ∨ s.key.present = false) : microArk s = none := by
  obtain hb | hk := h
  · simp [microArk, Reg.get?_eq_none.2 hb]
  · simp [microArk, Reg.get?_eq_none.2 hk]

theorem microSub_eq_none {s : State} (h : s.blk.present = false) : microSub s = none := by
  simp [microSub, Reg.get?_eq_none.2 h]

theorem microPerm_eq_none {s : State} (h : s.blk.present = false) : microPerm s = none := by
  simp [microPerm, Reg.get?_eq_none.2 h]

/-! ### The bits of the permuted block -/

/-- Every bit of a block is the image of one: P is onto (R110). -/
theorem exists_permIndex_eq {q : Nat} (hq : q < 64) : ∃ p, p < 64 ∧ permIndex p = q :=
  ⟨4 * (q % 16) + q / 16, by omega, by unfold permIndex; omega⟩

/-- The bits that are 1 after the permutation layer are the images of those that were 1 before it (R112). -/
theorem getLsbD_pLayer_iff (b : Block) {q : Nat} (hq : q < 64) :
    (pLayer b).getLsbD q = true ↔ ∃ p, p < 64 ∧ b.getLsbD p = true ∧ q = permIndex p := by
  constructor
  · intro h
    obtain ⟨p, hp, rfl⟩ := exists_permIndex_eq hq
    exact ⟨p, hp, getLsbD_pLayer b p hp ▸ h, rfl⟩
  · rintro ⟨p, hp, hbit, rfl⟩
    exact (getLsbD_pLayer b p hp).trans hbit

/-- Settles O15: each micro-op's equation on loaded registers, with the substituted block read by lanes and the permuted
block by bits, and its fault on an absent one. -/
theorem datapathMicroOps : Obligations.DatapathMicroOps := by
  refine fun s => ⟨microArk_eq_none, microArk_loaded, fun h => ⟨microSub_eq_none h, microPerm_eq_none h⟩, fun hb => ?_⟩
  constructor
  · exact ⟨_, microSub_loaded hb, fun i => lane_sLayer (selectTable s.rom s.tsel) s.blk.value i.val i.isLt⟩
  · exact ⟨_, microPerm_loaded hb, fun _ hq => getLsbD_pLayer_iff s.blk.value hq⟩

end Sys2Proof.Machine
end

section
/-! Proofs about the substitution ROMs (41_substitution.md §1): the table laws as a statement about every nibble, lawful
tables as bijections of the nibbles, and from them O19. -/

namespace Sys2Proof.Machine

/-- The check over the sixteen nibbles decides the laws of R102. -/
theorem lawfulTables_iff (tables : Tables) :
    lawfulTables tables = true ↔
      ∀ v : Nibble, lookup tables.inv (lookup tables.fwd v) = v ∧ lookup tables.fwd (lookup tables.inv v) = v := by
  constructor
  · exact lookup_inverse
  · intro laws
    simp only [lawfulTables, List.all_eq_true, Bool.and_eq_true, beq_iff_eq]
    exact fun v _ => laws v

theorem lookup_fwd_bijective {tables : Tables} (h : lawfulTables tables = true) :
    Function.Bijective (lookup tables.fwd) :=
  Function.bijective_iff_has_inverse.2
    ⟨lookup tables.inv, fun v => (lookup_inverse h v).1, fun v => (lookup_inverse h v).2⟩

theorem lookup_inv_bijective {tables : Tables} (h : lawfulTables tables = true) :
    Function.Bijective (lookup tables.inv) :=
  Function.bijective_iff_has_inverse.2
    ⟨lookup tables.fwd, fun v => (lookup_inverse h v).2, fun v => (lookup_inverse h v).1⟩

/-- Settles O19: the check's meaning, each table a bijection because the other is its two-sided inverse, and the step
that tests the laws before any turn. -/
theorem lawfulTablesArePermutations : Obligations.LawfulTablesArePermutations := by
  refine ⟨lawfulTables_iff, fun tables h y => ⟨?_, ?_⟩, fun s => step_unlawful⟩
  · exact (lookup_fwd_bijective h).existsUnique y
  · exact (lookup_inv_bijective h).existsUnique y

end Sys2Proof.Machine
end

section
/-! Proofs about the key-schedule micro-ops µKSF and µKSI (43_key_schedule.md): when each raises the model fault, where
each bit of the key goes in one step, and from them O25 and O26. -/

namespace Sys2Proof.Machine

/-! ### A schedule step on an absent KEY -/

theorem microKsf_eq_none {s : State} (r : Round) (h : s.key.present = false) : microKsf r s = none := by
  simp [microKsf, Reg.get?_eq_none.2 h]

theorem microKsi_eq_none {s : State} (r : Round) (h : s.key.present = false) : microKsi r s = none := by
  simp [microKsi, Reg.get?_eq_none.2 h]

/-! ### The bits of the stepped key -/

/-- The byte XORed in holds r in bits 38..34 of the key, so it leaves a field below bit 34 alone (R120). -/
theorem extractLsb'_xorByte5_of_le (r : Round) (k : Key) {start len : Nat} (h : start + len ≤ 34) :
    (xorByte5 r k).extractLsb' start len = k.extractLsb' start len := by
  apply BitVec.eq_of_getLsbD_eq
  intro i hi
  have hbelow : ¬ 34 ≤ start + i := by omega
  rw [BitVec.getLsbD_extractLsb', BitVec.getLsbD_extractLsb', getLsbD_xorByte5 r k _ (by omega)]
  simp [hbelow]

/-- A field that a rotation does not cut in two moves as a whole. -/
theorem extractLsb'_rotl80 (k : Key) {m start len : Nat} (hm : m < 80) (h : start + m + len ≤ 80) :
    (rotl80 k m).extractLsb' (start + m) len = k.extractLsb' start len := by
  apply BitVec.eq_of_getLsbD_eq
  intro i hi
  have hmoved : start + m + i = (start + i + m) % 80 := by omega
  rw [BitVec.getLsbD_extractLsb', BitVec.getLsbD_extractLsb', hmoved, getLsbD_rotl80 k m _ hm (by omega)]

/-- Below the substituted nibble a forward step moves a bit by 61 places, after the XOR (R120). -/
theorem getLsbD_ksForward (tables : Tables) (r : Round) (k : Key) {n : Nat} (hn : n < 80)
    (hlow : (n + 61) % 80 < 76) :
    (ksForward tables r k).getLsbD ((n + 61) % 80) =
      ((k.getLsbD n) ^^ (decide (34 ≤ n) && r.getLsbD (n - 34))) := by
  rw [ksForward, getLsbD_subHighNibble _ _ _ (by omega), if_pos hlow, getLsbD_rotl80 _ _ _ (by omega) hn,
    getLsbD_xorByte5 r k n hn]

/-- The nibble that a forward step substitutes is the old bits 18..15, which the XOR does not reach (R120). -/
theorem extractLsb'_ksForward (tables : Tables) (r : Round) (k : Key) :
    (ksForward tables r k).extractLsb' 76 4 = lookup tables.fwd (k.extractLsb' 15 4) := by
  have hrot : (rotl80 (xorByte5 r k) 61).extractLsb' 76 4 = (xorByte5 r k).extractLsb' 15 4 :=
    extractLsb'_rotl80 (xorByte5 r k) (by omega) (by omega)
  rw [ksForward, extract_subHighNibble, hrot, extractLsb'_xorByte5_of_le r k (by omega)]

/-- An inverse step substitutes, then moves a bit by 19 places, then XORs at the bit's new place (R121). -/
theorem getLsbD_ksInverse (tables : Tables) (r : Round) (k : Key) {n : Nat} (hn : n < 80) :
    (ksInverse tables r k).getLsbD ((n + 19) % 80) =
      ((if n < 76 then k.getLsbD n else (lookup tables.inv (k.extractLsb' 76 4)).getLsbD (n - 76)) ^^
        (decide (34 ≤ (n + 19) % 80) && r.getLsbD ((n + 19) % 80 - 34))) := by
  rw [ksInverse, getLsbD_xorByte5 _ _ _ (by omega), getLsbD_rotl80 _ _ _ (by omega) hn,
    getLsbD_subHighNibble _ _ _ hn]

/-- Settles O25: µKSF's equation on a loaded KEY, with the stepped key read by its bits and its substituted nibble, and
its fault on an absent one. -/
theorem forwardStepBits : Obligations.ForwardStepBits := by
  refine fun s r => ⟨microKsf_eq_none r, fun h => ?_⟩
  exact ⟨ksForward s.rom r s.key.value, microKsf_loaded r h,
    fun _ => getLsbD_ksForward s.rom r s.key.value, extractLsb'_ksForward s.rom r s.key.value⟩

/-- Settles O26: µKSI's equation on a loaded KEY, with the stepped key read by its bits, and its fault on an absent
one. -/
theorem inverseStepBits : Obligations.InverseStepBits := by
  refine fun s r => ⟨microKsi_eq_none r, fun h => ?_⟩
  exact ⟨ksInverse s.rom r s.key.value, microKsi_loaded r h, fun _ => getLsbD_ksInverse s.rom r s.key.value⟩

end Sys2Proof.Machine
end

section
/-! Proofs about the ENC sequencer (44_encrypt.md): the micro-step in E_RND and the final mix, each as one equation, and
from them O30. -/

namespace Sys2Proof.Machine

/-- µSUB on a loaded BLK uses the table that TSEL names. -/
theorem microSub_of_tsel {s : State} {t : Table} (hb : s.blk.present = true) (ht : s.tsel = t) :
    microSub s = some { s with blk := Reg.loaded (sLayer (selectTable s.rom t) s.blk.value) } := by
  subst ht
  exact microSub_loaded hb

/-- The move after a micro-op of an ENC round, from the state before it: a micro-op leaves SUB as it was. -/
theorem encryptMove_of_run {s u : State} {m : MicroOp} (h : m.run s = some u) (r : Round) :
    encryptMove r u = if s.sub = 3
      then if r.toNat < 31 then { u with rc := Reg.loaded (r + 1), sub := 0 } else { u with phase := .eFin }
      else { u with sub := s.sub + 1 } := by
  obtain ⟨-, -, -, hsub, -⟩ := MicroOp.run_fields h
  rw [encryptMove, ← hsub]
  rfl

/-- An unfaulted core in E_RND with RC = r in 1..31 performs the SUB-th micro-op of the round, then moves (R142). -/
theorem coreStep_eRnd {s u : State} {r : Round} {m : MicroOp} (hf : s.mfault = none) (hp : s.phase = .eRnd)
    (hrc : s.rc = Reg.loaded r) (hr : roundOk r = true) (hm : (encryptOps r)[s.sub.toNat]? = some m)
    (hrun : m.run s = some u) :
    coreStep s = .next (if s.sub = 3
      then if r.toNat < 31 then { u with rc := Reg.loaded (r + 1), sub := 0 } else { u with phase := .eFin }
      else { u with sub := s.sub + 1 }) := by
  have hround : s.roundNumber? = some r := roundNumber_loaded hrc (by simpa [roundOk] using hr)
  rw [← encryptMove_of_run hrun]
  simp [coreStep, hf, hp, encryptStep, hround, performAt_some hm, perform_some hrun]

/-- An unfaulted core in E_FIN or D_FIN mixes the key in and completes (R142, R162). -/
theorem coreStep_final {s u : State} (hf : s.mfault = none) (hp : s.phase = .eFin ∨ s.phase = .dFin)
    (hrun : microArk s = some u) : coreStep s = .next u.complete := by
  have hmix : finalMixStep s = .next u.complete := perform_some (m := .ark) hrun State.complete
  obtain hp | hp := hp <;> simp [coreStep, hf, hp, hmix]

/-- Settles O30: at each SUB of E_RND the round's micro-op runs, because the registers it reads are loaded, and the move
for that SUB and round follows; E_FIN is the final mix. -/
theorem encSequencerMicroSteps : Obligations.EncSequencerMicroSteps := by
  unfold Obligations.EncSequencerMicroSteps
  refine fun s r hf hblk hkey =>
    ⟨fun hp hrc hr => ⟨fun hsub => ?mix, fun hsub htsel => ?substitute, fun hsub => ?permute,
      fun hsub hlt => ?schedule, fun hsub hlast => ?last⟩, fun hp => ?final⟩
  case mix =>
    rw [coreStep_eRnd (m := .ark) hf hp hrc hr (by rw [hsub]; rfl) (microArk_loaded hblk hkey)]
    simp [hsub, keyMix, xorWith, roundKey, Reg.loaded]
  case substitute =>
    rw [coreStep_eRnd (m := .sub) hf hp hrc hr (by rw [hsub]; rfl) (microSub_of_tsel hblk htsel)]
    simp [hsub, selectTable, Reg.loaded]
  case permute =>
    rw [coreStep_eRnd (m := .perm) hf hp hrc hr (by rw [hsub]; rfl) (microPerm_loaded hblk)]
    simp [hsub, Reg.loaded]
  case schedule =>
    rw [coreStep_eRnd (m := .ksf r) hf hp hrc hr (by rw [hsub]; rfl) (microKsf_loaded r hkey)]
    simp [hsub, hlt, Reg.loaded]
  case last =>
    rw [coreStep_eRnd (m := .ksf r) hf hp hrc hr (by rw [hsub]; rfl) (microKsf_loaded r hkey)]
    simp [hsub, hlast, Reg.loaded]
  case final => exact coreStep_final hf (.inl hp) (microArk_loaded hblk hkey)

end Sys2Proof.Machine
end

section
/-! Proofs about the DEC sequencer (45_decrypt.md): the micro-steps in D_FF and D_RND, each as one equation, and from
them O31. -/

namespace Sys2Proof.Machine

/-- An unfaulted core in D_FF with RC = r in 1..31 takes the forward schedule step alone, then moves (R162). -/
theorem coreStep_dFf {s u : State} {r : Round} (hf : s.mfault = none) (hp : s.phase = .dFf)
    (hrc : s.rc = Reg.loaded r) (hr : roundOk r = true) (hrun : microKsf r s = some u) :
    coreStep s = .next (fastForwardMove r u) := by
  have hround : s.roundNumber? = some r := roundNumber_loaded hrc (by simpa [roundOk] using hr)
  have hstep : perform (.ksf r) s (fastForwardMove r) = .next (fastForwardMove r u) :=
    perform_some (m := .ksf r) hrun _
  simp [coreStep, hf, hp, fastForwardStep, hround, hstep]

/-- The move after a micro-op of a DEC round, from the state before it: a micro-op leaves SUB as it was. -/
theorem decryptMove_of_run {s u : State} {m : MicroOp} (h : m.run s = some u) (r : Round) :
    decryptMove r u = if s.sub = 4
      then if 1 < r.toNat then { u with rc := Reg.loaded (r - 1), sub := 0 }
        else { u with rc := Reg.loaded 0, phase := .dFin }
      else { u with sub := s.sub + 1 } := by
  obtain ⟨-, -, -, hsub, -⟩ := MicroOp.run_fields h
  rw [decryptMove, ← hsub]
  rfl

/-- An unfaulted core in D_RND with RC = r in 1..31 performs the SUB-th micro-op of the round, then moves (R162). -/
theorem coreStep_dRnd {s u : State} {r : Round} {m : MicroOp} (hf : s.mfault = none) (hp : s.phase = .dRnd)
    (hrc : s.rc = Reg.loaded r) (hr : roundOk r = true) (hm : (decryptOps r)[s.sub.toNat]? = some m)
    (hrun : m.run s = some u) :
    coreStep s = .next (if s.sub = 4
      then if 1 < r.toNat then { u with rc := Reg.loaded (r - 1), sub := 0 }
        else { u with rc := Reg.loaded 0, phase := .dFin }
      else { u with sub := s.sub + 1 }) := by
  have hround : s.roundNumber? = some r := roundNumber_loaded hrc (by simpa [roundOk] using hr)
  rw [← decryptMove_of_run hrun]
  simp [coreStep, hf, hp, decryptStep, hround, performAt_some hm, perform_some hrun]

/-- Settles O31: D_FF is the schedule step and its move; at each SUB of D_RND the round's micro-op runs, because the
registers it reads are loaded, and the move for that SUB and round follows; D_FIN is the final mix. -/
theorem decSequencerMicroSteps : Obligations.DecSequencerMicroSteps := by
  unfold Obligations.DecSequencerMicroSteps
  refine fun s r hf hblk hkey =>
    ⟨fun hp hrc hr => ⟨fun hround => ?forward, fun hround => ?turn⟩,
      fun hp hrc hr => ⟨fun hsub => ?mix, fun hsub => ?permute, fun hsub => ?permuteAgain,
        fun hsub htsel => ?substitute, fun hsub hround => ?schedule, fun hsub hround => ?last⟩,
      fun hp => ?final⟩
  case forward | turn =>
    rw [coreStep_dFf hf hp hrc hr (microKsf_loaded r hkey)]
    simp [fastForwardMove, hround, Reg.loaded]
  case mix =>
    rw [coreStep_dRnd (m := .ark) hf hp hrc hr (by rw [hsub]; rfl) (microArk_loaded hblk hkey)]
    simp [hsub, keyMix, xorWith, roundKey, Reg.loaded]
  case permute | permuteAgain =>
    rw [coreStep_dRnd (m := .perm) hf hp hrc hr (by rw [hsub]; rfl) (microPerm_loaded hblk)]
    simp [hsub, Reg.loaded]
  case substitute =>
    rw [coreStep_dRnd (m := .sub) hf hp hrc hr (by rw [hsub]; rfl) (microSub_of_tsel hblk htsel)]
    simp [hsub, selectTable, Reg.loaded]
  case schedule | last =>
    rw [coreStep_dRnd (m := .ksi r) hf hp hrc hr (by rw [hsub]; rfl) (microKsi_loaded r hkey)]
    simp [hsub, hround, Reg.loaded]
  case final => exact coreStep_final hf (.inr hp) (microArk_loaded hblk hkey)

end Sys2Proof.Machine
end

section
/-! Proofs about DEC as a function (45_decrypt.md, R163 to R165): each layer of a round undone by the other cipher's, a
round undone by the other cipher's round up to the key-mix between them, and from them O34. -/

namespace Sys2Proof.Machine

/-! ### The layers -/

/-- Substitution through tables that undo each other on nibbles undoes a layer, lane by lane (R105). -/
theorem sLayer_undo {rom rom' : Vector Nibble 16} (h : ∀ v, lookup rom' (lookup rom v) = v) (b : Block) :
    sLayer rom' (sLayer rom b) = b :=
  lane_ext _ _ fun i hi => by rw [lane_sLayer _ _ i hi, lane_sLayer _ _ i hi, h]

/-- P applied three times leaves every bit index in place (R114). -/
theorem permIndex_permIndex_permIndex {p : Nat} (hp : p < 64) : permIndex (permIndex (permIndex p)) = p := by
  unfold permIndex; omega

/-- The permutation layer has order three (R114): the two layers of a DEC round undo the one of an ENC round. -/
theorem pLayer_pLayer_pLayer (b : Block) : pLayer (pLayer (pLayer b)) = b := by
  apply BitVec.eq_of_getLsbD_eq
  intro p hp
  have h1 : permIndex p < 64 := permIndex_lt hp
  have h2 : permIndex (permIndex p) < 64 := permIndex_lt h1
  calc (pLayer (pLayer (pLayer b))).getLsbD p
      = (pLayer (pLayer (pLayer b))).getLsbD (permIndex (permIndex (permIndex p))) := by
        rw [permIndex_permIndex_permIndex hp]
    _ = b.getLsbD p := by rw [getLsbD_pLayer _ _ h2, getLsbD_pLayer _ _ h1, getLsbD_pLayer _ _ hp]

section
variable {tables : Tables} (h : lawfulTables tables = true)
include h

/-- The inverse schedule step undoes the forward one, part by part in the opposite order (R124). -/
theorem ksInverse_ksForward (r : Round) (k : Key) : ksInverse tables r (ksForward tables r k) = k := by
  rw [ksInverse, ksForward, subHighNibble_undo fun v => (lookup_inverse h v).1,
    rotl80_rotl80 _ (by rfl) (by decide) (by decide), xorByte5_xorByte5]

theorem ksForward_ksInverse (r : Round) (k : Key) : ksForward tables r (ksInverse tables r k) = k := by
  rw [ksInverse, ksForward, xorByte5_xorByte5, rotl80_rotl80 _ (by rfl) (by decide) (by decide),
    subHighNibble_undo fun v => (lookup_inverse h v).2]

end

/-! ### The rounds -/

/-- The key-mix on the pair of R143 and R163: the key is kept. -/
def mixPair (bk : Block × Key) : Block × Key := (keyMix bk.2 bk.1, bk.2)

theorem mixPair_mixPair (bk : Block × Key) : mixPair (mixPair bk) = bk := by
  rw [mixPair, mixPair, keyMix_keyMix]

theorem encryptFn_eq (tables : Tables) (b : Block) (k : Key) :
    encryptFn tables b k = mixPair (roundsUp.foldl (encryptRound tables) (b, k)) := rfl

/-- K_32, the key that the fast-forward of DEC reaches (R125, R163). -/
def lastKey (tables : Tables) (k : Key) : Key := roundsUp.foldl (fun k r => ksForward tables r k) k

theorem decryptFn_eq (tables : Tables) (c : Block) (k : Key) :
    decryptFn tables c k = mixPair (roundsUp.reverse.foldl (decryptRound tables) (c, lastKey tables k)) := rfl

section
variable {tables : Tables} (h : lawfulTables tables = true)
include h

/-- The key-mix of a DEC round meets the mix before it, so undoing an ENC round leaves that round's own mix. -/
theorem decryptRound_mixPair_encryptRound (bk : Block × Key) (r : Round) :
    decryptRound tables (mixPair (encryptRound tables bk r)) r = mixPair bk := by
  simp only [decryptRound, encryptRound, mixPair, keyMix_keyMix, pLayer_pLayer_pLayer,
    sLayer_undo fun v => (lookup_inverse h v).1, ksInverse_ksForward h]

theorem encryptRound_mixPair_decryptRound (bk : Block × Key) (r : Round) :
    encryptRound tables (mixPair (decryptRound tables bk r)) r = mixPair bk := by
  simp only [decryptRound, encryptRound, mixPair, keyMix_keyMix, pLayer_pLayer_pLayer,
    sLayer_undo fun v => (lookup_inverse h v).2, ksForward_ksInverse h]

end

/-! ### The walks -/

/-- Where one step `g` undoes one step `f` up to a map `m` between them, the walk back over a list undoes the walk
over it, up to the same map. -/
theorem foldl_reverse_undo {α β : Type} {f g : α → β → α} {m : α → α} (undo : ∀ x r, g (m (f x r)) r = m x)
    (l : List β) (x : α) : l.reverse.foldl g (m (l.foldl f x)) = m x := by
  induction l generalizing x with
  | nil => rfl
  | cons r l ih => rw [List.foldl_cons, List.reverse_cons, List.foldl_append, ih, List.foldl_cons, undo, List.foldl_nil]

/-- ENC ends with K_32 (R143). -/
theorem encryptFn_snd (tables : Tables) (b : Block) (k : Key) : (encryptFn tables b k).2 = lastKey tables k :=
  (List.foldl_hom Prod.snd fun _ _ => rfl).symm

section
variable {tables : Tables} (h : lawfulTables tables = true)
include h

/-- DEC ends with the master key: the inverse schedule walks back over the fast-forward (R163, R164). -/
theorem decryptFn_snd (c : Block) (k : Key) : (decryptFn tables c k).2 = k :=
  calc (decryptFn tables c k).2
      = roundsUp.reverse.foldl (fun k r => ksInverse tables r k) (lastKey tables k) :=
        (List.foldl_hom Prod.snd fun _ _ => rfl).symm
    _ = k := foldl_reverse_undo (m := id) (fun k r => ksInverse_ksForward h r k) roundsUp k

theorem decryptFn_encryptFn (b : Block) (k : Key) : decryptFn tables (encryptFn tables b k).1 k = (b, k) :=
  calc decryptFn tables (encryptFn tables b k).1 k
      = mixPair (roundsUp.reverse.foldl (decryptRound tables) (encryptFn tables b k)) := by
        rw [decryptFn_eq, ← encryptFn_snd tables b k]
    _ = mixPair (mixPair (b, k)) := by
        rw [encryptFn_eq, foldl_reverse_undo (decryptRound_mixPair_encryptRound h)]
    _ = (b, k) := mixPair_mixPair _

theorem encryptFn_decryptFn (c : Block) (k : Key) :
    encryptFn tables (decryptFn tables c k).1 k = (c, lastKey tables k) :=
  calc encryptFn tables (decryptFn tables c k).1 k
      = mixPair (roundsUp.reverse.reverse.foldl (encryptRound tables) (decryptFn tables c k)) := by
        rw [List.reverse_reverse, encryptFn_eq]
        nth_rw 2 [← decryptFn_snd h c k]
    _ = mixPair (mixPair (c, lastKey tables k)) := by
        rw [decryptFn_eq, foldl_reverse_undo (encryptRound_mixPair_decryptRound h)]
    _ = (c, lastKey tables k) := mixPair_mixPair _

end

/-- Settles O34: each cipher's walk undoes the other's, and the key of the second walk is the one the first ended
with. -/
theorem decryptAndEncryptRoundTrip : Obligations.DecryptAndEncryptRoundTrip := fun _ b k h =>
  ⟨congrArg Prod.fst (decryptFn_encryptFn h b k), congrArg Prod.fst (encryptFn_decryptFn h b k)⟩

end Sys2Proof.Machine
end

section
/-! Proofs about the error events of the command port (60_exceptions.md R202, R203, R206): the four outcomes of an issue
event, micro-steps that do the same whatever err holds, and from them O11, O12 and O14. -/

namespace Sys2Proof.Machine

/-! ### What an issue event answers -/

/-- A command that the fields of a word name is well formed unless its opcode takes R and R is 0 (R76 (d)). -/
theorem commandOf_wf {op : BitVec 4} {t : BitVec 1} {r : Round} {i : Instr} (h : commandOf op t r = some i)
    (hr : ¬ (usesRound op = true ∧ r = 0)) : i.wf = true := by
  have nonzero (hop : usesRound op = true) : roundOk r = true := by simpa [roundOk] using fun h0 => hr ⟨hop, h0⟩
  unfold commandOf at h
  split at h
  case h_7 hop | h_8 hop | h_9 hop | h_10 hop =>
    cases h
    exact nonzero (by simp [usesRound, ← BitVec.toNat_inj, hop])
  case h_13 => cases h
  all_goals cases h; rfl

/-- A legal word decodes to a well-formed command (R81). -/
theorem decode_legal {w : CmdWord} (h : ¬ IllegalByRule w) : ∃ i, decode w = .ok i ∧ i.wf = true := by
  cases hd : decode w with
  | error e => exact absurd ((decode_refuses_iff w).1 ⟨e, hd⟩) h
  | ok i =>
    refine ⟨i, rfl, ?_⟩
    unfold decode at hd
    split_ifs at hd with _ _ _ zero
    split at hd
    case h_1 j hj => cases hd; exact commandOf_wf hj zero
    case h_2 => cases hd

/-- A command issued while another runs is dropped and BUSY recorded, by its own meaning too (R203). -/
theorem exec_busy {s : State} (hb : s.busy = true) (i : Instr) : exec i s = .next (s.raiseErr .busy) := by
  cases hw : i.wf with
  | true => exact (exec_wf hw s).trans (issueCheck_busy hb _)
  | false => exact (exec_not_wf hw s).trans (issueIllegal_busy hb)

/-- While rst is held an issue does nothing (R232). -/
theorem issueEvent_held {s : State} (hr : s.rst = true) : issueEvent s = .next s := by
  simp [issueEvent, hr]

section
variable {s : State} (hr : s.rst = false)
include hr

/-- R203: BUSY, whatever the word. -/
theorem issueEvent_busy (hb : s.busy = true) : issueEvent s = .next (s.raiseErr .busy) := by
  cases hd : decode s.cmd with
  | ok i => simpa [issueEvent, hr, State.sampleCmd, hd] using exec_busy hb i
  | error e => simpa [issueEvent, hr, State.sampleCmd, hd] using issueIllegal_busy hb

/-- R202: ILLEGAL, whichever of the causes the word has. -/
theorem issueEvent_illegal (hb : s.busy = false) (hw : IllegalByRule s.cmd) :
    issueEvent s = .next (s.raiseErr .illegal) := by
  obtain ⟨e, hd⟩ := (decode_refuses_iff s.cmd).2 hw
  simpa [issueEvent, hr, State.sampleCmd, hd] using issueIllegal_idle hb

/-- R34: a legal word issued on an idle core is accepted. -/
theorem issueEvent_legal (hb : s.busy = false) (hw : ¬ IllegalByRule s.cmd) :
    ∃ i, i.wf = true ∧ issueEvent s = .next (acceptance i s.clearStatus) := by
  obtain ⟨i, hd, hi⟩ := decode_legal hw
  exact ⟨i, hi, by simpa [issueEvent, hr, State.sampleCmd, hd] using exec_accepted hi hb⟩

end

/-- A step whose turn is the host's issue is the issue event, on the state past that turn. -/
theorem step_issue {s : State} {rest : List Turn} (hl : lawfulTables s.rom = true) (hs : s.schedule = .issue :: rest) :
    step s = issueEvent { s with schedule := rest } := by
  have hturn : s.turn = .issue := by simp [State.turn, hs]
  rw [step_turn hl, hturn, hs]
  rfl

/-- Settles O11: the illegal branch of the issue event. -/
theorem illegalIssueOnlySetsErrAndDone : Obligations.IllegalIssueOnlySetsErrAndDone :=
  fun _ _ hl hr hb hs hw => (step_issue hl hs).trans (issueEvent_illegal hr hb hw)

/-! ### A micro-step neither reads nor writes err -/

/-- The same state with another code in status[3:2] (R28). -/
abbrev State.withErr (s : State) (e : Err) : State := { s with err := e }

@[simp] theorem State.latchedOps_withErr (s : State) (e : Err) : (s.withErr e).latchedOps = s.latchedOps := rfl
@[simp] theorem State.roundNumber_withErr (s : State) (e : Err) : (s.withErr e).roundNumber? = s.roundNumber? := rfl

section
variable (s : State) (e : Err)

theorem MicroOp.run_withErr (m : MicroOp) : m.run (s.withErr e) = (m.run s).map (·.withErr e) := by
  obtain ⟨⟨_, blk⟩, ⟨_, key⟩⟩ := s
  cases m <;> cases blk <;> cases key <;> rfl

theorem primMove_withErr (ops : List MicroOp) : primMove ops (s.withErr e) = (primMove ops s).withErr e := by
  simp only [primMove]; split_ifs <;> rfl

theorem encryptMove_withErr (r : Round) : encryptMove r (s.withErr e) = (encryptMove r s).withErr e := by
  simp only [encryptMove]; split_ifs <;> rfl

theorem fastForwardMove_withErr (r : Round) : fastForwardMove r (s.withErr e) = (fastForwardMove r s).withErr e := by
  simp only [fastForwardMove]; split_ifs <;> rfl

theorem decryptMove_withErr (r : Round) : decryptMove r (s.withErr e) = (decryptMove r s).withErr e := by
  simp only [decryptMove]; split_ifs <;> rfl

variable {move : State → State} (hmove : ∀ u, move (u.withErr e) = (move u).withErr e)
include hmove

theorem perform_withErr (m : MicroOp) :
    perform m (s.withErr e) move = mapNext (·.withErr e) (perform m s move) := by
  simp only [perform, MicroOp.run_withErr]
  cases m.run s with
  | none => rfl
  | some u => exact congrArg Host.Outcome.next (hmove u)

theorem performAt_withErr (ops : List MicroOp) :
    performAt ops (s.withErr e) move = mapNext (·.withErr e) (performAt ops s move) := by
  simp only [performAt]
  cases ops[s.sub.toNat]? with
  | none => rfl
  | some m => exact perform_withErr s e hmove m

end

/-- In every phase the micro-op and the sequencer's move after it carry err through. -/
theorem coreStep_withErr (s : State) (e : Err) : coreStep (s.withErr e) = mapNext (·.withErr e) (coreStep s) := by
  simp only [coreStep]
  cases s.mfault with
  | some f => rfl
  | none =>
    cases s.phase with
    | idle => rfl
    | prim =>
      simp only [primStep, State.latchedOps_withErr]
      cases s.latchedOps with
      | none => rfl
      | some ops => exact performAt_withErr s e (primMove_withErr · e ops) ops
    | eRnd =>
      simp only [encryptStep, State.roundNumber_withErr]
      cases s.roundNumber? with
      | none => rfl
      | some r => exact performAt_withErr s e (encryptMove_withErr · e r) (encryptOps r)
    | dFf =>
      simp only [fastForwardStep, State.roundNumber_withErr]
      cases s.roundNumber? with
      | none => rfl
      | some r => exact perform_withErr s e (fastForwardMove_withErr · e r) (.ksf r)
    | dRnd =>
      simp only [decryptStep, State.roundNumber_withErr]
      cases s.roundNumber? with
      | none => rfl
      | some r => exact performAt_withErr s e (decryptMove_withErr · e r) (decryptOps r)
    | eFin | dFin => exact perform_withErr s e (fun _ => rfl) .ark

theorem coreRun_withErr (n : Nat) (s : State) (e : Err) :
    coreRun n (s.withErr e) = mapNext (·.withErr e) (coreRun n s) := by
  induction n generalizing s with
  | zero => rfl
  | succ n ih =>
    simp only [coreRun, coreStep_withErr]
    cases coreStep s with
    | next t => exact ih t
    | fault f => rfl
    | refused r => rfl

/-- Settles O12: the busy branch of the issue event and of each command's meaning, and runs that carry err through. -/
theorem busyIssueOnlySetsErr : Obligations.BusyIssueOnlySetsErr :=
  ⟨fun _ _ hl hr hb hs => (step_issue hl hs).trans (issueEvent_busy hr hb), fun _ i hb => exec_busy hb i,
    fun s e n => coreRun_withErr n s e⟩

/-! ### Who writes err -/

/-- R38, R206: a micro-step leaves err, a completing one too: put back what err holds, and the step is the same. -/
theorem coreStep_err {s t : State} (h : coreStep s = .next t) : t.err = s.err := by
  have hsame := coreStep_withErr s s.err
  rw [h] at hsame
  have hmoved : t = t.withErr s.err := Host.Outcome.next.inj hsame
  exact (congrArg State.err hmoved :)

theorem acceptance_err (i : Instr) (s : State) : (acceptance i s).err = s.err := by
  cases i <;> rfl

theorem issueEvent_err {s t : State} (h : issueEvent s = .next t) (hr : s.rst = false) :
    t.err = if s.busy then .busy else if IllegalByRule s.cmd then .illegal else .ok := by
  split_ifs with hb hw
  · cases (issueEvent_busy hr hb).symm.trans h
    rfl
  · cases (issueEvent_illegal hr (by simpa using hb) hw).symm.trans h
    rfl
  · obtain ⟨i, -, hi⟩ := issueEvent_legal hr (by simpa using hb) hw
    cases hi.symm.trans h
    exact acceptance_err i s.clearStatus

/-- R206, turn by turn. -/
theorem turnStep_err {turn : Turn} {s t : State} (h : turnStep turn s = .next t) (hreset : turn.resets = false) :
    t.err = if turn = .issue ∧ s.rst = false
      then if s.busy then .busy else if IllegalByRule s.cmd then .illegal else .ok
      else s.err := by
  cases turn with
  | core => exact coreStep_err h
  | issue =>
    cases hr : s.rst with
    | true =>
      cases (issueEvent_held hr).symm.trans h
      simp
    | false => rw [if_pos ⟨rfl, rfl⟩]; exact issueEvent_err h hr
  | assertRst | assertRstAndIssue => cases hreset
  | driveCmd | driveBlk | driveKey | releaseRst | readOutputs => cases h; rfl

/-- Settles O14: a step is a turn, and NOP's acceptance is `done <- 1` on the cleared status. -/
theorem errChangesOnlyAtIssueOrReset : Obligations.ErrChangesOnlyAtIssueOrReset :=
  ⟨fun _ _ h hreset => (turnStep_err (step_next h).2 hreset :), fun _ hb => exec_accepted rfl hb⟩

end Sys2Proof.Machine
end

section
/-! Proofs about the model fault UnloadedRead (60_exceptions.md R208): which micro-ops raise it, which steps change it,
and from them O55. -/

namespace Sys2Proof.Machine

/-! ### When a micro-op raises the fault -/

theorem microArk_eq_none_iff {s : State} : microArk s = none ↔ s.blk.present = false ∨ s.key.present = false :=
  ⟨MicroOp.run_none (m := .ark), microArk_eq_none⟩

theorem microSub_eq_none_iff {s : State} : microSub s = none ↔ s.blk.present = false := by
  cases hb : s.blk.present with
  | false => simp [microSub_eq_none hb]
  | true => simp [microSub_loaded hb]

theorem microPerm_eq_none_iff {s : State} : microPerm s = none ↔ s.blk.present = false := by
  cases hb : s.blk.present with
  | false => simp [microPerm_eq_none hb]
  | true => simp [microPerm_loaded hb]

theorem microKsf_eq_none_iff {s : State} (r : Round) : microKsf r s = none ↔ s.key.present = false := by
  cases hk : s.key.present with
  | false => simp [microKsf_eq_none r hk]
  | true => simp [microKsf_loaded r hk]

theorem microKsi_eq_none_iff {s : State} (r : Round) : microKsi r s = none ↔ s.key.present = false := by
  cases hk : s.key.present with
  | false => simp [microKsi_eq_none r hk]
  | true => simp [microKsi_loaded r hk]

/-! ### Which steps change the fault -/

theorem MicroOp.run_mfault {m : MicroOp} {s u : State} (h : m.run s = some u) : u.mfault = s.mfault := by
  obtain ⟨-, -, ⟨b, rfl⟩⟩ | ⟨-, -, ⟨k, rfl⟩⟩ := m.run_some h <;> rfl

theorem primMove_mfault (ops : List MicroOp) (u : State) : (primMove ops u).mfault = u.mfault := by
  unfold primMove; split_ifs <;> rfl

theorem encryptMove_mfault (r : Round) (u : State) : (encryptMove r u).mfault = u.mfault := by
  unfold encryptMove; split_ifs <;> rfl

theorem fastForwardMove_mfault (r : Round) (u : State) : (fastForwardMove r u).mfault = u.mfault := by
  unfold fastForwardMove; split_ifs <;> rfl

theorem decryptMove_mfault (r : Round) (u : State) : (decryptMove r u).mfault = u.mfault := by
  unfold decryptMove; split_ifs <;> rfl

/-- A move of the core raises the fault on an absent register, or leaves it as it was. -/
theorem CoreMove.mfault_cases {s t : State} (h : CoreMove s t) :
    ((s.blk.present = false ∨ s.key.present = false) ∧ t.mfault = some .unloadedRead) ∨ t.mfault = s.mfault := by
  cases h with
  | unloaded m _ hr => exact .inl ⟨MicroOp.run_none hr, rfl⟩
  | wait => exact .inr rfl
  | prim ops m u _ _ _ hr => exact .inr ((primMove_mfault ops u).trans (MicroOp.run_mfault hr))
  | encrypt r m u _ _ _ hr => exact .inr ((encryptMove_mfault r u).trans (MicroOp.run_mfault hr))
  | forward r u _ _ hr => exact .inr ((fastForwardMove_mfault r u).trans (MicroOp.run_mfault (m := .ksf r) hr))
  | decrypt r m u _ _ _ hr => exact .inr ((decryptMove_mfault r u).trans (MicroOp.run_mfault hr))
  | final u _ hr => exact .inr ((State.complete_mfault u).trans (MicroOp.run_mfault (m := .ark) hr))

@[simp] theorem acceptance_mfault (i : Instr) (s : State) : (acceptance i s).mfault = s.mfault := by
  cases i <;> rfl

/-- An issue neither raises nor clears a model fault. -/
theorem issueEvent_mfault {s t : State} (h : issueEvent s = .next t) : t.mfault = s.mfault := by
  obtain ⟨-, rfl⟩ | ⟨-, i, -, hexec⟩ | ⟨-, -, -, hill⟩ := issueEvent_cases h
  · rfl
  · obtain ⟨-, rfl⟩ | ⟨-, -, rfl⟩ | ⟨-, -, rfl⟩ := exec_cases hexec <;> simp
  · cases hb : s.busy with
    | true => cases (issueIllegal_busy hb).symm.trans hill; rfl
    | false => cases (issueIllegal_idle hb).symm.trans hill; rfl

/-- R208: only reset ends a model fault. -/
theorem turnStep_mfault {turn : Turn} {s t : State} (h : turnStep turn s = .next t) (hf : s.mfault ≠ none) :
    t.mfault = if turn.resets then none else s.mfault := by
  cases turn with
  | core =>
    cases (coreStep_faulted hf).symm.trans h
    rfl
  | issue => exact issueEvent_mfault h
  | assertRst | assertRstAndIssue => cases h; rfl
  | driveCmd | driveBlk | driveKey | releaseRst | readOutputs => cases h; rfl

/-- A faulted core still has its command in progress (R40, R208). -/
theorem State.Inv.not_ended_of_faulted {s : State} (hi : s.Inv) (hf : s.mfault ≠ none) : ¬ s.Ended := by
  obtain ⟨hprim, -⟩ := hi.faulted hf
  have hbusy : s.busy = true := hi.busy_iff.2 (by simp [hprim])
  simp [State.Ended, hbusy]

/-- Settles O55: the micro-ops' absent reads, the one move that raises the fault, and the turns that keep it. -/
theorem unloadedReadFaultsUntilReset : Obligations.UnloadedReadFaultsUntilReset := by
  refine ⟨fun s => ⟨microArk_eq_none_iff, microSub_eq_none_iff, microPerm_eq_none_iff,
      microKsf_eq_none_iff, microKsi_eq_none_iff⟩,
    fun m s move hm => ⟨s.raiseModelFault, perform_none hm move, rfl⟩,
    fun s t h hf ht => ?raised, fun s t hf h => ?stands,
    fun s hi hf => hi.not_ended_of_faulted hf, fun s t h hf => (turnStep_mfault (step_next h).2 hf :)⟩
  case raised =>
    obtain ⟨hf', -⟩ | ⟨-, hmove⟩ := coreStep_next h
    · exact absurd hf hf'
    · exact hmove.mfault_cases.resolve_right fun hkept => ht (hkept.trans hf)
  case stands =>
    rw [coreStep_faulted hf] at h
    exact (Host.Outcome.next.inj h).symm

end Sys2Proof.Machine
end

section
/-! Proofs about the data ports (20_memory.md R57, 70_reset_and_hazards.md R235): the fields that no micro-step reads or
writes, the acceptance actions that sample no port, and from them O45. -/

namespace Sys2Proof.Machine

/-! ### What a micro-step neither reads nor writes -/

/-- The state `s` with the fields that no micro-step reads or writes (err, the input ports, the turns to come) taken
from `o`. -/
abbrev State.withFrameOf (s o : State) : State :=
  { s with err := o.err, rst := o.rst, cmd := o.cmd, dinBlk := o.dinBlk, dinKey := o.dinKey, schedule := o.schedule }

section
variable (s o : State)

theorem State.latchedOps_withFrameOf : (s.withFrameOf o).latchedOps = s.latchedOps := rfl
theorem State.roundNumber_withFrameOf : (s.withFrameOf o).roundNumber? = s.roundNumber? := rfl

theorem MicroOp.run_withFrameOf (m : MicroOp) : m.run (s.withFrameOf o) = (m.run s).map (·.withFrameOf o) := by
  obtain ⟨⟨_, blk⟩, ⟨_, key⟩⟩ := s
  cases m <;> cases blk <;> cases key <;> rfl

theorem primMove_withFrameOf (ops : List MicroOp) :
    primMove ops (s.withFrameOf o) = (primMove ops s).withFrameOf o := by
  simp only [primMove]; split_ifs <;> rfl

theorem encryptMove_withFrameOf (r : Round) : encryptMove r (s.withFrameOf o) = (encryptMove r s).withFrameOf o := by
  simp only [encryptMove]; split_ifs <;> rfl

theorem fastForwardMove_withFrameOf (r : Round) :
    fastForwardMove r (s.withFrameOf o) = (fastForwardMove r s).withFrameOf o := by
  simp only [fastForwardMove]; split_ifs <;> rfl

theorem decryptMove_withFrameOf (r : Round) : decryptMove r (s.withFrameOf o) = (decryptMove r s).withFrameOf o := by
  simp only [decryptMove]; split_ifs <;> rfl

variable {move : State → State} (hmove : ∀ u, move (u.withFrameOf o) = (move u).withFrameOf o)
include hmove

theorem perform_withFrameOf (m : MicroOp) :
    perform m (s.withFrameOf o) move = mapNext (·.withFrameOf o) (perform m s move) := by
  simp only [perform, MicroOp.run_withFrameOf]
  cases m.run s with
  | none => rfl
  | some u => exact congrArg Host.Outcome.next (hmove u)

theorem performAt_withFrameOf (ops : List MicroOp) :
    performAt ops (s.withFrameOf o) move = mapNext (·.withFrameOf o) (performAt ops s move) := by
  simp only [performAt]
  cases ops[s.sub.toNat]? with
  | none => rfl
  | some m => exact perform_withFrameOf s o hmove m

end

/-- In every phase what picks the micro-op and the move is outside the frame, and both carry the frame through
(`coreStep_withErr` for all of the frame at once). -/
theorem coreStep_withFrameOf (s o : State) :
    coreStep (s.withFrameOf o) = mapNext (·.withFrameOf o) (coreStep s) := by
  simp only [coreStep]
  cases s.mfault with
  | some f => rfl
  | none =>
    cases s.phase with
    | idle => rfl
    | prim =>
      simp only [primStep, State.latchedOps_withFrameOf]
      cases s.latchedOps with
      | none => rfl
      | some ops => exact performAt_withFrameOf s o (primMove_withFrameOf · o ops) ops
    | eRnd =>
      simp only [encryptStep, State.roundNumber_withFrameOf]
      cases s.roundNumber? with
      | none => rfl
      | some r => exact performAt_withFrameOf s o (encryptMove_withFrameOf · o r) (encryptOps r)
    | dFf =>
      simp only [fastForwardStep, State.roundNumber_withFrameOf]
      cases s.roundNumber? with
      | none => rfl
      | some r => exact perform_withFrameOf s o (fastForwardMove_withFrameOf · o r) (.ksf r)
    | dRnd =>
      simp only [decryptStep, State.roundNumber_withFrameOf]
      cases s.roundNumber? with
      | none => rfl
      | some r => exact performAt_withFrameOf s o (decryptMove_withFrameOf · o r) (decryptOps r)
    | eFin | dFin => exact perform_withFrameOf s o (fun _ => rfl) .ark

/-- A micro-step writes nothing of the frame: put the old frame back, and the step is the same. -/
theorem coreStep_frame {s t : State} (h : coreStep s = .next t) : t = t.withFrameOf s := by
  have hsame : coreStep s = mapNext (·.withFrameOf s) (coreStep s) := coreStep_withFrameOf s s
  rw [h] at hsame
  exact Host.Outcome.next.inj hsame

/-- R235: the data ports are part of the frame of a micro-step. -/
theorem coreStep_withInputs (s : State) (b : Block) (k : Key) :
    coreStep (s.withInputs b k) = mapNext (·.withInputs b k) (coreStep s) := by
  have hstep : coreStep (s.withInputs b k) = mapNext (·.withFrameOf (s.withInputs b k)) (coreStep s) :=
    coreStep_withFrameOf s (s.withInputs b k)
  rw [hstep]
  cases h : coreStep s with
  | next t =>
    have hframe : t.withFrameOf (s.withInputs b k) = t.withInputs b k :=
      (congrArg (·.withInputs b k) (coreStep_frame h)).symm
    exact congrArg Host.Outcome.next hframe
  | fault f => rfl
  | refused r => rfl

/-! ### Which issues sample a data port -/

/-- A rejected command reads no data port, so a command reads just those that its acceptance does (R202, R203, R235). -/
theorem exec_withInputs {i : Instr} {s : State} {b : Block} {k : Key}
    (h : acceptance i (s.withInputs b k).clearStatus = (acceptance i s.clearStatus).withInputs b k) :
    exec i (s.withInputs b k) = mapNext (·.withInputs b k) (exec i s) := by
  cases hb : s.busy with
  | true => rw [exec_busy hb, exec_busy (s := s.withInputs b k) hb]; rfl
  | false =>
    cases hw : i.wf with
    | true => rw [exec_accepted hw hb, exec_accepted (s := s.withInputs b k) hw hb, h]; rfl
    | false =>
      rw [exec_not_wf hw, exec_not_wf hw, issueIllegal_idle hb, issueIllegal_idle (s := s.withInputs b k) hb]; rfl

/-- The acceptance of a command other than LDB, LDK, ENC and DEC samples no data port (R35). -/
theorem acceptance_withInputs {i : Instr} (hldb : i ≠ .ldb) (hldk : i ≠ .ldk) (henc : i ≠ .enc) (hdec : i ≠ .dec)
    (s : State) (b : Block) (k : Key) :
    acceptance i (s.withInputs b k) = (acceptance i s).withInputs b k := by
  cases i with
  | ldb => exact absurd rfl hldb
  | ldk => exact absurd rfl hldk
  | enc => exact absurd rfl henc
  | dec => exact absurd rfl hdec
  | nop | ark | sl | pl | ksf | ksi | rnde | rndd => rfl

/-- Settles O45: the micro-steps by their frame, the commands by what their acceptance samples. -/
theorem inputsSampledOnlyAtLoads : Obligations.InputsSampledOnlyAtLoads := fun s b k =>
  ⟨coreStep_withInputs s b k,
    fun _ hldb hldk henc hdec => exec_withInputs (acceptance_withInputs hldb hldk henc hdec s.clearStatus b k),
    exec_withInputs rfl, exec_withInputs rfl⟩

end Sys2Proof.Machine
end

section
/-! Proofs about reset (70_reset_and_hazards.md R230 to R232): the turns that assert rst are the reset event, and from
that and the turns that keep a model fault O53. -/

namespace Sys2Proof.Machine

/-- A step over lawful tables takes the first turn listed (R20). -/
theorem step_scheduled {s : State} {turn : Turn} {rest : List Turn} (hl : lawfulTables s.rom = true)
    (hs : s.schedule = turn :: rest) : step s = turnStep turn { s with schedule := rest } := by
  have hturn : s.turn = turn := by simp [State.turn, hs]
  rw [step_turn hl, hturn, hs]
  rfl

/-- R230, R232: a turn that asserts rst is the reset event, whether or not a command is issued with it. -/
theorem turnStep_resets {turn : Turn} (h : turn = .assertRst ∨ turn = .assertRstAndIssue) (s : State) :
    turnStep turn s = .next s.resetEvent := by
  obtain rfl | rfl := h <;> rfl

/-- A core that has just been reset waits (R213, R230). -/
theorem coreStep_resetEvent (s : State) : coreStep s.resetEvent = .next s.resetEvent :=
  coreStep_idle s.resetEvent_phase

/-- R208, R230: a step that clears a model fault is a reset. -/
theorem resets_of_step_clears_mfault {s t : State} (h : step s = .next t) (hs : s.mfault ≠ none)
    (ht : t.mfault = none) : s.turn.resets = true := by
  have hkept : t.mfault = if s.turn.resets then none else s.mfault := (turnStep_mfault (step_next h).2 hs :)
  by_contra hreset
  rw [if_neg hreset, ht] at hkept
  exact hs hkept.symm

/-- Settles O53: the reset event, read field by field, the turns that keep a model fault, and the issue event under a
held rst. -/
theorem resetWinsFromAnyState : Obligations.ResetWinsFromAnyState := by
  refine ⟨fun s rest turn hl hturn hs => ?reset, fun s t => resets_of_step_clears_mfault,
    fun s rest hl hr hs => (step_issue hl hs).trans (issueEvent_held hr)⟩
  case reset =>
    refine ⟨_, (step_scheduled hl hs).trans (turnStep_resets hturn _), rfl, rfl, rfl, rfl, rfl, rfl, rfl, rfl, rfl, rfl,
      rfl, rfl, rfl, fun u hu => ?_⟩
    rw [coreStep_resetEvent] at hu
    exact (Host.Outcome.next.inj hu).symm

end Sys2Proof.Machine
end

section
/-! Proofs about the encoder and the decoder as inverses (30_encoding.md §1, §3, §5) and about the assembler's reading
of a command (§4); from them O1, O2, O4 and O5. -/

namespace Sys2Proof.Machine

/-! ### A decoded word is the word of its command -/

theorem op_of_commandOf {op : BitVec 4} {t : BitVec 1} {r : Round} {i : Instr} (h : commandOf op t r = some i) :
    i.op = op := by
  unfold commandOf at h
  split at h
  case h_13 => cases h
  all_goals
    rename_i hop
    cases h
    exact (BitVec.eq_of_toNat_eq hop).symm

@[simp] theorem bit_tableOfBit : ∀ t : BitVec 1, (tableOfBit t).bit = t := by decide

/-- The operands of the command are those that its opcode takes, and 0 else (R71). -/
theorem operands_of_commandOf {op : BitVec 4} {t : BitVec 1} {r : Round} {i : Instr} (h : commandOf op t r = some i) :
    i.tBit = (if op = 4 then t else 0) ∧ i.round = (if usesRound op = true then r else 0) := by
  obtain rfl := op_of_commandOf h
  cases i with
  | sl s =>
    obtain rfl : tableOfBit t = s := by simpa [commandOf, Instr.op] using h
    simp [Instr.op, Instr.tBit, Instr.round, usesRound]
  | ksf s | ksi s | rnde s | rndd s =>
    obtain rfl : r = s := by simpa [commandOf, Instr.op] using h
    simp [Instr.op, Instr.tBit, Instr.round, usesRound]
  | _ => simp [Instr.op, Instr.tBit, Instr.round, usesRound]

/-- R81: a word that decodes passed every check, and its fields name the command. -/
theorem decode_ok {w : CmdWord} {i : Instr} (h : decode w = .ok i) :
    commandOf (opField w) (tField w) (rField w) = some i ∧ ¬ IllegalByRule w := by
  refine ⟨?_, fun hill => ?_⟩
  · unfold decode at h
    split_ifs at h
    split at h
    case h_1 j hj => cases h; exact hj
    case h_2 => cases h
  · obtain ⟨e, he⟩ := (decode_refuses_iff w).2 hill
    cases h.symm.trans he

theorem wf_of_decode {w : CmdWord} {i : Instr} (h : decode w = .ok i) : i.wf = true := by
  obtain ⟨j, hj, hwf⟩ := decode_legal (decode_ok h).2
  cases h.symm.trans hj
  exact hwf

/-- R82: encoding a decoded word gives the word back, field by field: an operand field that the opcode does not take
is 0 in a legal word. -/
theorem encode_of_decode {w : CmdWord} {i : Instr} (h : decode w = .ok i) : encode i = w := by
  obtain ⟨hi, hlegal⟩ := decode_ok h
  obtain ⟨htbit, hround⟩ := operands_of_commandOf hi
  have htable : opField w ≠ 4 → tField w = 0 := fun hop => by
    by_contra ht
    exact hlegal (.inr (.inr (.inl ⟨(bit_ne_zero_iff _).1 ht, hop⟩)))
  have hplain : ¬ usesRound (opField w) = true → rField w = 0 := fun hop => by
    by_contra hr
    exact hlegal (.inr (.inr (.inr (.inl ⟨hr, fun hmem => hop ((usesRound_iff_mem _).2 hmem)⟩))))
  have hrsvd : rsvdField w = 0 := by
    by_contra hne
    exact hlegal (.inr (.inl hne))
  refine (eq_iff_fields _ _).2 ⟨?op, ?table, ?round, ?rsvd⟩
  case op => rw [opField_encode, op_of_commandOf hi]
  case table =>
    rw [tField_encode, htbit]
    split_ifs with hop
    · rfl
    · exact (htable hop).symm
  case round =>
    rw [rField_encode, hround]
    split_ifs with hop
    · rfl
    · exact (hplain hop).symm
  case rsvd => rw [rsvdField_encode, hrsvd]

/-- Settles O2: a legal word has the fields of its command, and the word of a well-formed command passes the decoder's
checks. -/
theorem decodeAndEncodeAgree : Obligations.DecodeAndEncodeAgree :=
  ⟨fun _ => rfl, rsvdField_encode, rfl, rfl, rfl, rfl, rfl, rfl, rfl,
    fun _ _ h => ⟨encode_of_decode h, wf_of_decode h⟩, fun _ => decode_encode⟩

/-- Settles O1: each legal word is that of the command listed, and each illegal one meets a cause of R202. -/
theorem tableWordsDecode : Obligations.TableWordsDecode := by
  refine ⟨rfl, rfl, rfl, rfl, rfl, rfl, rfl, rfl, rfl, rfl, rfl, rfl, rfl, rfl, fun w hw => ?_⟩
  have causes : ([0x0006, 0x0009, 0x0010, 0x0015, 0x0020, 0x002A, 0x0034, 0x000C, 0x000F, 0x0400, 0x8003, 0xFFFF] :
      List CmdWord).all (fun w => decide (IllegalByRule w)) = true := by decide
  exact (decode_refuses_iff w).2 (List.all_iff_forall_prop.1 causes w hw)

/-! ### The opcode map -/

/-- The word of a well-formed command selects the command's own row and meets its constraint (R75). -/
theorem encode_matches_row (i : Instr) : Laws.EncodeMatchesRow.Statement i := by
  cases i with
  | nop => exact Laws.EncodeMatchesRow.nop
  | ldb => exact Laws.EncodeMatchesRow.ldb
  | ldk => exact Laws.EncodeMatchesRow.ldk
  | ark => exact Laws.EncodeMatchesRow.ark
  | sl t => exact Laws.EncodeMatchesRow.sl t
  | pl => exact Laws.EncodeMatchesRow.pl
  | ksf r => exact Laws.EncodeMatchesRow.ksf r
  | ksi r => exact Laws.EncodeMatchesRow.ksi r
  | rnde r => exact Laws.EncodeMatchesRow.rnde r
  | rndd r => exact Laws.EncodeMatchesRow.rndd r
  | enc => exact Laws.EncodeMatchesRow.enc
  | dec => exact Laws.EncodeMatchesRow.dec

/-- The mask of R75 leaves R free on just the opcodes that take it. -/
theorem rowOf_mask_iff : ∀ op : BitVec 4, op.toNat < 12 → ((rowOf op).mask = 0xFC1F ↔ usesRound op = true) := by decide

/-- A word that selects a row and meets its constraint on R breaks no rule (R76). -/
theorem not_illegal_of_selects {op : BitVec 4} {w : CmdWord} (hop : op.toNat < 12)
    (hsel : w &&& (rowOf op).mask = (rowOf op).pattern)
    (hr : (rowOf op).mask = 0xFC1F → 1 ≤ (rField w).toNat) : opField w = op ∧ ¬ IllegalByRule w := by
  obtain ⟨rfl, ht, hround, hrsvd⟩ := (selects_rowOf_iff hop w).1 hsel
  refine ⟨rfl, ?_⟩
  rintro (h | h | ⟨h, hne⟩ | ⟨h, hmem⟩ | ⟨h, hmem⟩)
  · exact Nat.not_le.2 hop h
  · exact h hrsvd
  · exact hne (ht ((bit_ne_zero_iff _).2 h))
  · exact hmem ((usesRound_iff_mem _).1 (hround h))
  · have hpos := hr ((rowOf_mask_iff _ hop).2 ((usesRound_iff_mem _).2 hmem))
    rw [rField, h] at hpos
    exact absurd hpos (by decide)

/-- R75: the row that a legal word selects is its command's. -/
theorem selects_row_iff {row : OpcodeRow} (hrow : row ∈ opcodeMap) (w : CmdWord) :
    (w &&& row.mask = row.pattern ∧ (row.mask = 0xFC1F → 1 ≤ (rField w).toNat)) ↔
      ∃ i, decode w = .ok i ∧ i.row = row := by
  constructor
  · rintro ⟨hsel, hr⟩
    obtain ⟨op, hop, rfl⟩ := (mem_opcodeMap_iff row).1 hrow
    obtain ⟨rfl, hlegal⟩ := not_illegal_of_selects hop hsel hr
    obtain ⟨i, hi, -⟩ := decode_legal hlegal
    exact ⟨i, hi, congrArg rowOf (op_of_commandOf (decode_ok hi).1)⟩
  · rintro ⟨i, hi, rfl⟩
    obtain ⟨-, hsel, hr⟩ := encode_matches_row i (wf_of_decode hi)
    rw [encode_of_decode hi] at hsel hr
    exact ⟨hsel, hr⟩

/-- A word that selects a row has the row's opcode, so the rows, whose opcodes differ, are disjoint (R75). -/
theorem opField_of_selects {row : OpcodeRow} (hrow : row ∈ opcodeMap) {w : CmdWord} (h : row.selects w = true) :
    opField row.pattern = opField w := by
  obtain ⟨op, hop, rfl⟩ := (mem_opcodeMap_iff row).1 hrow
  obtain ⟨hw, -⟩ := (selects_rowOf_iff hop w).1 (by simpa [OpcodeRow.selects] using h)
  rw [(rowOf_fields op hop).1.1, hw]

theorem opcodeMap_disjoint :
    opcodeMap.Pairwise fun a b => ∀ w, ¬(a.selects w = true ∧ b.selects w = true) := by
  have opcodes : opcodeMap.Pairwise fun a b => opField a.pattern ≠ opField b.pattern := by decide
  refine opcodes.imp_of_mem fun ha hb hne w ⟨hwa, hwb⟩ => hne ?_
  rw [opField_of_selects ha hwa, opField_of_selects hb hwb]

theorem mem_roundsUp_iff : ∀ r : Round, r ∈ roundsUp ↔ roundOk r = true := by decide

theorem mem_legalInstrs_iff (i : Instr) : i ∈ legalInstrs ↔ i.wf = true := by
  cases i with
  | sl t => cases t <;> simp [legalInstrs, Instr.wf]
  | _ => simp [legalInstrs, Instr.wf, mem_roundsUp_iff]

theorem legalInstrs_nodup : legalInstrs.Nodup := by decide +kernel

/-- A word is legal exactly when it is the word of a command of the map. -/
theorem decode_answers_iff (w : CmdWord) : (∃ i, decode w = .ok i) ↔ w ∈ legalInstrs.map encode := by
  rw [List.mem_map]
  constructor
  · rintro ⟨i, hi⟩
    exact ⟨i, (mem_legalInstrs_iff i).2 (wf_of_decode hi), encode_of_decode hi⟩
  · rintro ⟨i, hi, rfl⟩
    exact ⟨i, decode_encode ((mem_legalInstrs_iff i).1 hi)⟩

/-- Well-formed commands have different words, because each word decodes to its own. -/
theorem legalWords_nodup : (legalInstrs.map encode).Nodup := by
  refine legalInstrs_nodup.map_on fun i hi j hj h => ?_
  have hdecode := decode_encode ((mem_legalInstrs_iff i).1 hi)
  rw [h, decode_encode ((mem_legalInstrs_iff j).1 hj)] at hdecode
  exact (Except.ok.inj hdecode).symm

/-- Settles O4: the rows by their opcodes, the legal words as the words of the well-formed commands. -/
theorem opcodeMapDecodes133Words : Obligations.OpcodeMapDecodes133Words :=
  ⟨fun w _ hrow => selects_row_iff hrow w, rfl, opcodeMap_disjoint, legalWords_nodup, rfl, decode_answers_iff⟩

/-! ### The assembler's reading of a command -/

/-- A character that is no separator of R79. -/
abbrev isPlain (c : Char) : Prop := c ≠ ';' ∧ c ≠ ' ' ∧ c ≠ '\t'

theorem wordsOf_single {c : Char} (hc : isPlain c) : wordsOf [c] = [[c]] := by
  simp [wordsOf, hc]

/-- A plain character alone before a blank is a word. -/
theorem wordsOf_single_blank {c : Char} (hc : isPlain c) (cs : List Char) :
    wordsOf (c :: ' ' :: cs) = [c] :: wordsOf cs := by
  obtain ⟨h1, h2, h3⟩ := hc
  cases hw : wordsOf cs <;> simp [wordsOf, h1, h2, h3, hw]

/-- A plain character before another one belongs to its word. -/
theorem wordsOf_cons {c d : Char} (hc : isPlain c) (hd : isPlain d) {cs w : List Char} {ws : List (List Char)}
    (h : wordsOf (d :: cs) = w :: ws) : wordsOf (c :: d :: cs) = (c :: w) :: ws := by
  obtain ⟨h1, h2, h3⟩ := hc
  obtain ⟨d1, d2, d3⟩ := hd
  unfold wordsOf
  simp [h1, h2, h3, d1, d2, d3, h]

/-- A nonempty run of characters none of which is a separator. -/
def isWord (word : List Char) : Bool := !word.isEmpty && word.all fun c => decide (isPlain c)

/-- A word without separators is read whole, up to a blank or the end of the line (R79). -/
theorem wordsOf_word {word : List Char} (h : isWord word = true) :
    wordsOf word = [word] ∧ ∀ rest, wordsOf (word ++ ' ' :: rest) = word :: wordsOf rest := by
  induction word with
  | nil => cases h
  | cons c cs ih =>
    simp only [isWord, List.isEmpty_cons, Bool.not_false, Bool.true_and, List.all_cons, Bool.and_eq_true,
      decide_eq_true_eq] at h
    obtain ⟨hc, hcs⟩ := h
    cases cs with
    | nil => exact ⟨wordsOf_single hc, wordsOf_single_blank hc⟩
    | cons d ds =>
      obtain ⟨hend, hblank⟩ := ih hcs
      have hd : isPlain d := of_decide_eq_true (List.all_eq_true.1 hcs d List.mem_cons_self)
      exact ⟨wordsOf_cons hc hd hend, fun rest => wordsOf_cons hc hd (hblank rest)⟩

/-- A round operand reads back from its decimal digits, one or two (R79). -/
theorem roundOf_showRound : ∀ r : Round, roundOk r = true → roundOf (showRound r) = .ok r := by decide +kernel

theorem isWord_showRound : ∀ r : Round, isWord (showRound r) = true := by decide

/-- A line of a name and a round operand is the command that the name's entry makes of the operand. -/
theorem parseLine_round {name : List Char} {command : Round → Instr} {r : Round} (hr : roundOk r = true)
    (hname : isWord name = true)
    (hentry : asmNames.find? (fun entry => entry.1 == name) = some (name, roundLine command)) :
    parseLine (name ++ ' ' :: showRound r) = .ok (some (.cmd (command r))) := by
  have hwords : wordsOf (name ++ ' ' :: showRound r) = [name, showRound r] := by
    rw [(wordsOf_word hname).2, (wordsOf_word (isWord_showRound r)).1]
  simp [parseLine, hwords, hentry, roundLine, roundOf_showRound r hr, Except.map]

/-- The line printed for a well-formed command is read as the command (R79). -/
theorem parseLine_asmOf {i : Instr} (h : i.wf = true) : parseLine (asmOf i) = .ok (some (.cmd i)) := by
  cases i with
  | sl t => cases t <;> decide
  | ksf r => exact parseLine_round (name := ['k', 's', 'f']) h rfl rfl
  | ksi r => exact parseLine_round (name := ['k', 's', 'i']) h rfl rfl
  | rnde r => exact parseLine_round (name := ['r', 'n', 'd', 'e']) h rfl rfl
  | rndd r => exact parseLine_round (name := ['r', 'n', 'd', 'd']) h rfl rfl
  | nop | ldb | ldk | ark | pl | enc | dec => decide

/-- Settles O5: the line's words are the name and the operand printed, and one command expands to itself. -/
theorem assemblerReadsEveryCommand : Obligations.AssemblerReadsEveryCommand := fun _ h =>
  ⟨parseLine_asmOf h, assemble_line (parseLine_asmOf h)⟩

end Sys2Proof.Machine
end

section
/-! Proofs about the invariant of the machine (10_state.md §4, §5): it holds at reset, each acceptance establishes it,
each move of the core and each turn keeps it, and no turn stops under it; from them O41, O57, O58 and O59. -/

namespace Sys2Proof.Machine

/-! ### What the invariant says of an idle and of a running core -/

section
variable {s : State} (h : s.Inv)
include h

theorem State.Inv.idle_of_not_busy (hb : s.busy = false) : s.phase = .idle := by
  by_contra hp
  simp [h.busy_iff.2 hp] at hb

theorem State.Inv.mfault_of_idle (hp : s.phase = .idle) : s.mfault = none := by
  by_contra hf
  obtain ⟨hprim, -⟩ := h.faulted hf
  simp [hprim] at hp

theorem State.Inv.rst_of_running (hp : s.phase ≠ .idle) : s.rst = false := by
  by_contra hr
  obtain ⟨-, -, -, -, -, hidle, -⟩ := h.held (by simpa using hr)
  exact hp hidle

end

theorem State.Inv.of_idle {s : State} (hp : s.phase = .idle) (hb : s.busy = false) (hf : s.mfault = none)
    (hr : s.rst = false) : s.Inv := by
  constructor <;> simp [hp, hb, hf, hr, Phase.isCipher]

theorem State.Inv.of_prim {s : State} {ops : List MicroOp} (hp : s.phase = .prim) (hb : s.busy = true)
    (hd : s.done = false) (hr : s.rst = false) (hops : s.latchedOps = some ops) (hsub : s.sub.toNat < ops.length)
    (htable : ∀ c t, s.latched = some c → tableSetBy c = some t → s.tsel = t)
    (hf : s.mfault ≠ none → s.blk.present = false ∨ s.key.present = false) : s.Inv where
  prim_index _ := ⟨ops, hops, hsub⟩
  prim_table _ := htable
  faulted hne := ⟨hp, hf hne⟩
  busy_iff := by simp [hp, hb]
  busy_not_done _ := hd
  enc_round := by simp [hp]
  enc_final := by simp [hp]
  dec_forward := by simp [hp]
  dec_round := by simp [hp]
  dec_final := by simp [hp]
  seeded := by simp [hp, Phase.isCipher]
  held := by simp [hr]

/-- The ranges of RC, SUB and TSEL in the phases of ENC and DEC (R26, R142, R162). -/
def State.CipherRange (s : State) : Prop :=
  match s.phase with
  | .idle => True
  | .prim => True
  | .eRnd => s.roundNumber?.isSome ∧ s.sub.toNat < 4 ∧ s.tsel = .fwd
  | .eFin => s.rc = Reg.loaded 31 ∧ s.tsel = .fwd
  | .dFf => s.roundNumber?.isSome ∧ s.tsel = .fwd
  | .dRnd => s.roundNumber?.isSome ∧ s.sub.toNat < 5 ∧ s.tsel = .inv
  | .dFin => s.rc = Reg.loaded 0 ∧ s.tsel = .inv

theorem State.Inv.of_cipher {s : State} (hc : s.phase.isCipher = true) (hb : s.busy = true) (hd : s.done = false)
    (hr : s.rst = false) (hblk : s.blk.present = true) (hkey : s.key.present = true) (hf : s.mfault = none)
    (hrange : s.CipherRange) : s.Inv := by
  unfold State.CipherRange at hrange
  cases hp : s.phase with
  | idle | prim => simp [hp, Phase.isCipher] at hc
  | eRnd | eFin | dFf | dRnd | dFin =>
    rw [hp] at hrange
    constructor <;> simp [hp, hb, hd, hr, hblk, hkey, hf, hrange]

/-- Within ENC and DEC the sequencer moves PHASE, TSEL, RC and SUB alone, so their ranges are all there is to show. -/
theorem State.Inv.of_cipher_move {u : State} (h : u.Inv) (hc : u.phase.isCipher = true) {p : Phase} {t : Table}
    {x : Reg 5} {n : BitVec 3} (hp : p.isCipher = true)
    (hrange : ({ u with phase := p, tsel := t, rc := x, sub := n } : State).CipherRange) :
    ({ u with phase := p, tsel := t, rc := x, sub := n } : State).Inv := by
  have hrun : u.phase ≠ .idle := fun hidle => by simp [hidle, Phase.isCipher] at hc
  obtain ⟨hblk, hkey, hf⟩ := h.seeded hc
  have hb : u.busy = true := h.busy_iff.2 hrun
  exact .of_cipher hp hb (h.busy_not_done hb) (h.rst_of_running hrun) hblk hkey hf hrange

/-! ### Acceptance establishes the invariant -/

/-- A primitive command starts at index 0 of its own list, with its table selected (R35). -/
theorem State.startPrim_inv {s : State} {c : Instr} {ops : List MicroOp} (hw : c.wf = true)
    (hops : primOps c = some ops) (htable : ∀ t, tableSetBy c = some t → s.tsel = t) (hd : s.done = false)
    (hf : s.mfault = none) (hr : s.rst = false) : (s.startPrim c).Inv := by
  have hlatched : (s.startPrim c).latched = some c := latched_encode hw rfl
  refine .of_prim rfl rfl hd hr ((latchedOps_encode hw rfl).trans hops) (primOps_length hops).1 ?_
    fun hne => absurd hf hne
  intro c' t hc' ht
  rw [hlatched] at hc'
  cases hc'
  exact htable t ht

theorem acceptance_inv {i : Instr} {s : State} (hw : i.wf = true) (hp : s.phase = .idle) (hb : s.busy = false)
    (hf : s.mfault = none) (hr : s.rst = false) : (acceptance i s.clearStatus).Inv := by
  cases i with
  | nop | ldb | ldk => exact .of_idle hp hb hf hr
  | ark | pl | ksf | ksi => exact State.startPrim_inv hw rfl (fun t ht => nomatch ht) rfl hf hr
  | sl | rnde | rndd => exact State.startPrim_inv hw rfl (fun t ht => Option.some.inj ht) rfl hf hr
  | enc => exact .of_cipher rfl rfl rfl hr rfl rfl hf ⟨rfl, Nat.zero_lt_succ 3, rfl⟩
  | dec => exact .of_cipher rfl rfl rfl hr rfl rfl hf ⟨rfl, rfl⟩

/-! ### The moves of the core keep the invariant -/

theorem MicroOp.run_keeps_inv {m : MicroOp} {s u : State} (hrun : m.run s = some u) (h : s.Inv) (hf : s.mfault = none)
    (hp : s.phase ≠ .idle) : u.Inv := by
  have hr : s.rst = false := h.rst_of_running hp
  obtain ⟨-, -, ⟨b, rfl⟩⟩ | ⟨-, -, ⟨k, rfl⟩⟩ := m.run_some hrun
  · exact { h with
      seeded := fun hc => ⟨rfl, (h.seeded hc).2⟩
      faulted := fun hne => absurd hf hne
      held := by simp [hr] }
  · exact { h with
      seeded := fun hc => ⟨(h.seeded hc).1, rfl, hf⟩
      faulted := fun hne => absurd hf hne
      held := by simp [hr] }

theorem toNat_sub_succ {n : BitVec 3} (h : n.toNat < 7) : (n + 1).toNat = n.toNat + 1 := by
  bv_omega

theorem toNat_round_succ {r : Round} (h : r.toNat < 31) : (r + 1).toNat = r.toNat + 1 := by
  bv_omega

theorem toNat_round_pred {r : Round} (h : 1 < r.toNat) : (r - 1).toNat = r.toNat - 1 := by
  bv_omega

/-- RC holds a legal round number (R142, R162). -/
theorem roundNumber_isSome {s : State} {r : Round} (h : s.rc = Reg.loaded r) (hr : 0 < r.toNat) :
    s.roundNumber?.isSome = true := by
  rw [roundNumber_loaded h fun h0 => by simp [h0] at hr]
  rfl

section
variable {u : State} (h : u.Inv)
include h

theorem complete_keeps_inv (hf : u.mfault = none) (hp : u.phase ≠ .idle) : u.complete.Inv :=
  .of_idle rfl rfl hf (h.rst_of_running hp)

theorem primMove_keeps_inv {ops : List MicroOp} (hf : u.mfault = none) (hp : u.phase = .prim)
    (hops : u.latchedOps = some ops) (hsub : u.sub.toNat < ops.length) (hlen : ops.length ≤ 5) :
    (primMove ops u).Inv := by
  have hrun : u.phase ≠ .idle := by simp [hp]
  unfold primMove
  split_ifs with hlast
  · exact complete_keeps_inv h hf hrun
  · have hb : u.busy = true := h.busy_iff.2 hrun
    refine .of_prim hp hb (h.busy_not_done hb) (h.rst_of_running hrun) hops ?_ (h.prim_table hp)
      fun hne => absurd hf hne
    rw [State.advanceSub_sub, toNat_sub_succ (by omega)]
    omega

theorem encryptMove_keeps_inv {r : Round} (hp : u.phase = .eRnd) (hround : u.roundNumber? = some r) :
    (encryptMove r u).Inv := by
  have hc : u.phase.isCipher = true := by rw [hp]; rfl
  obtain ⟨hsome, hsub, htsel⟩ := h.enc_round hp
  obtain ⟨hrc, -⟩ := roundNumber_some hround
  unfold encryptMove
  split_ifs with hend hmore
  · refine h.of_cipher_move hc hc ?_
    simp only [State.CipherRange, hp]
    exact ⟨roundNumber_isSome rfl (by rw [toNat_round_succ hmore]; omega), Nat.zero_lt_succ 3, htsel⟩
  · have hlast : r = 31 := by bv_omega
    exact h.of_cipher_move hc rfl ⟨hlast ▸ hrc, htsel⟩
  · refine h.of_cipher_move hc hc ?_
    simp only [State.CipherRange, hp]
    exact ⟨hsome, by bv_omega, htsel⟩

theorem fastForwardMove_keeps_inv {r : Round} (hp : u.phase = .dFf) : (fastForwardMove r u).Inv := by
  have hc : u.phase.isCipher = true := by rw [hp]; rfl
  obtain ⟨-, htsel⟩ := h.dec_forward hp
  unfold fastForwardMove
  split_ifs with hmore
  · refine h.of_cipher_move hc hc ?_
    simp only [State.CipherRange, hp]
    exact ⟨roundNumber_isSome rfl (by rw [toNat_round_succ hmore]; omega), htsel⟩
  · exact h.of_cipher_move hc rfl ⟨rfl, Nat.zero_lt_succ 4, rfl⟩

theorem decryptMove_keeps_inv {r : Round} (hp : u.phase = .dRnd) : (decryptMove r u).Inv := by
  have hc : u.phase.isCipher = true := by rw [hp]; rfl
  obtain ⟨hsome, hsub, htsel⟩ := h.dec_round hp
  unfold decryptMove
  split_ifs with hend hmore
  · refine h.of_cipher_move hc hc ?_
    simp only [State.CipherRange, hp]
    exact ⟨roundNumber_isSome rfl (by rw [toNat_round_pred hmore]; omega), Nat.zero_lt_succ 4, htsel⟩
  · exact h.of_cipher_move hc rfl ⟨rfl, htsel⟩
  · refine h.of_cipher_move hc hc ?_
    simp only [State.CipherRange, hp]
    exact ⟨hsome, by bv_omega, htsel⟩

end

/-- What a sequencer's move reads is as the micro-op before it found it. -/
theorem MicroOp.run_roundNumber {m : MicroOp} {s u : State} (h : m.run s = some u) :
    u.roundNumber? = s.roundNumber? := by
  obtain ⟨hrc, -⟩ := MicroOp.run_fields h
  rw [State.roundNumber?, State.roundNumber?, hrc]

theorem MicroOp.run_latchedOps {m : MicroOp} {s u : State} (h : m.run s = some u) : u.latchedOps = s.latchedOps := by
  obtain ⟨-, -, -, -, hcmdl, -⟩ := MicroOp.run_fields h
  rw [State.latchedOps, State.latchedOps, hcmdl]

theorem length_of_latchedOps {s : State} {ops : List MicroOp} (h : s.latchedOps = some ops) :
    0 < ops.length ∧ ops.length ≤ 5 := by
  rw [latchedOps_eq] at h
  obtain ⟨c, -, hc⟩ := Option.bind_eq_some_iff.1 h
  exact primOps_length hc

/-- Only a primitive command can find a register absent (R145, R208). -/
theorem State.Inv.prim_of_run_none {s : State} {m : MicroOp} (h : s.Inv) (hp : s.phase ≠ .idle)
    (hrun : m.run s = none) : s.phase = .prim := by
  by_contra hprim
  have hc : s.phase.isCipher = true := by cases hs : s.phase <;> simp_all [Phase.isCipher]
  obtain ⟨hblk, hkey, -⟩ := h.seeded hc
  simpa [hblk, hkey] using MicroOp.run_none hrun

theorem CoreMove.keeps_inv {s t : State} (hmove : CoreMove s t) (h : s.Inv) (hf : s.mfault = none) : t.Inv := by
  have after {m : MicroOp} {u : State} {p : Phase} (hp : s.phase = p) (hne : p ≠ .idle) (hrun : m.run s = some u) :
      u.Inv ∧ u.mfault = none ∧ u.phase = p ∧ u.sub = s.sub := by
    obtain ⟨-, -, hphase, hsub, -⟩ := MicroOp.run_fields hrun
    exact ⟨m.run_keeps_inv hrun h hf (hp ▸ hne), (MicroOp.run_mfault hrun).trans hf, hphase.trans hp, hsub⟩
  cases hmove with
  | wait => exact h
  | unloaded m hp hrun =>
    have hprim := h.prim_of_run_none hp hrun
    have habsent : s.blk.present = false ∨ s.key.present = false := MicroOp.run_none hrun
    exact { h with
      seeded := by simp [hprim, Phase.isCipher]
      faulted := fun _ => ⟨hprim, habsent⟩
      held := by simp [h.rst_of_running hp] }
  | prim ops m u hp hops hm hrun =>
    obtain ⟨hu, huf, hup, husub⟩ := after hp (by simp) hrun
    obtain ⟨hlt, -⟩ := List.getElem?_eq_some_iff.1 hm
    exact primMove_keeps_inv hu huf hup ((MicroOp.run_latchedOps hrun).trans hops) (husub ▸ hlt)
      (length_of_latchedOps hops).2
  | encrypt r m u hp hround hm hrun =>
    obtain ⟨hu, -, hup, -⟩ := after hp (by simp) hrun
    exact encryptMove_keeps_inv hu hup ((MicroOp.run_roundNumber hrun).trans hround)
  | forward r u hp hround hrun =>
    obtain ⟨hu, -, hup, -⟩ := after (m := .ksf r) hp (by simp) hrun
    exact fastForwardMove_keeps_inv hu hup
  | decrypt r m u hp hround hm hrun =>
    obtain ⟨hu, -, hup, -⟩ := after hp (by simp) hrun
    exact decryptMove_keeps_inv hu hup
  | final u hp hrun =>
    have hne : s.phase ≠ .idle := by obtain hp | hp := hp <;> simp [hp]
    obtain ⟨hu, huf, hup, -⟩ := after (m := .ark) rfl hne hrun
    exact complete_keeps_inv hu huf (hup ▸ hne)

theorem coreStep_keeps_inv {s t : State} (h : s.Inv) (hstep : coreStep s = .next t) : t.Inv := by
  obtain ⟨-, rfl⟩ | ⟨hf, hmove⟩ := coreStep_next hstep
  · exact h
  · exact hmove.keeps_inv h hf

/-! ### The turns keep the invariant -/

/-- R203: a rejection while busy writes err alone. -/
theorem State.Inv.raiseErr_busy {s : State} (h : s.Inv) (hr : s.rst = false) : (s.raiseErr .busy).Inv :=
  { h with held := by simp [hr] }

/-- The cases of an issue while rst is low: BUSY, ILLEGAL or the acceptance of the command on cmd (R34). -/
theorem issueEvent_cases_low {s t : State} (hstep : issueEvent s = .next t) (hr : s.rst = false) :
    (s.busy = true ∧ t = s.raiseErr .busy) ∨
    (s.busy = false ∧ t = s.raiseErr .illegal) ∨
    (s.busy = false ∧ ∃ i, decode s.cmd = .ok i ∧ t = acceptance i s.clearStatus) := by
  obtain ⟨hr', -⟩ | ⟨-, i, hi, hexec⟩ | ⟨-, e, -, hill⟩ := issueEvent_cases hstep
  · simp [hr] at hr'
  · obtain ⟨hb, rfl⟩ | ⟨hb, -, rfl⟩ | ⟨hb, -, rfl⟩ := exec_cases hexec
    · exact .inl ⟨hb, rfl⟩
    · exact .inr (.inr ⟨hb, i, hi, rfl⟩)
    · exact .inr (.inl ⟨hb, rfl⟩)
  · cases hb : s.busy with
    | true => cases (issueIllegal_busy hb).symm.trans hill; exact .inl ⟨rfl, rfl⟩
    | false => cases (issueIllegal_idle hb).symm.trans hill; exact .inr (.inl ⟨rfl, rfl⟩)

theorem issueEvent_keeps_inv {s t : State} (h : s.Inv) (hstep : issueEvent s = .next t) : t.Inv := by
  cases hr : s.rst with
  | true =>
    cases (issueEvent_held hr).symm.trans hstep
    exact h
  | false =>
    obtain ⟨-, rfl⟩ | ⟨hb, rfl⟩ | ⟨hb, i, hi, rfl⟩ := issueEvent_cases_low hstep hr
    · exact h.raiseErr_busy hr
    · have hp := h.idle_of_not_busy hb
      exact .of_idle hp hb (h.mfault_of_idle hp) hr
    · have hp := h.idle_of_not_busy hb
      exact acceptance_inv (wf_of_decode hi) hp hb (h.mfault_of_idle hp) hr

theorem State.resetEvent_inv (s : State) : s.resetEvent.Inv := by
  constructor <;> simp [Phase.isCipher]

theorem turnStep_keeps_inv {turn : Turn} {s t : State} (h : s.Inv) (hstep : turnStep turn s = .next t) : t.Inv := by
  cases turn with
  | core => exact coreStep_keeps_inv h hstep
  | issue => exact issueEvent_keeps_inv h hstep
  | assertRst | assertRstAndIssue => cases hstep; exact s.resetEvent_inv
  | releaseRst => cases hstep; exact { h with held := nofun }
  | driveCmd | driveBlk | driveKey | readOutputs => cases hstep; exact { h with }

/-- The turns to come are no part of the invariant. -/
theorem State.Inv.withSchedule {s : State} (h : s.Inv) (l : List Turn) : ({ s with schedule := l } : State).Inv :=
  { h with }

/-- Settles O58: a step is one turn, on the state past that turn. -/
theorem stepKeepsInvariant : Obligations.StepKeepsInvariant := fun _ _ h hstep =>
  turnStep_keeps_inv (h.withSchedule _) (step_next hstep).2

/-- Settles O57: nothing runs, no fault stands and rst is low. -/
theorem invariantHoldsAtReset : Obligations.InvariantHoldsAtReset :=
  .of_idle rfl rfl rfl rfl

/-! ### No turn stops the machine under the invariant -/

theorem perform_answers (m : MicroOp) (s : State) (move : State → State) : ∃ t, perform m s move = .next t := by
  cases h : m.run s with
  | none => exact ⟨_, perform_none h move⟩
  | some u => exact ⟨_, perform_some h move⟩

theorem performAt_answers {ops : List MicroOp} {s : State} (h : s.sub.toNat < ops.length) (move : State → State) :
    ∃ t, performAt ops s move = .next t := by
  rw [performAt_some (List.getElem?_eq_getElem h)]
  exact perform_answers _ _ _

/-- In each phase the invariant gives the sequencer its list of micro-ops, its index and its round number. -/
theorem coreStep_answers {s : State} (h : s.Inv) : ∃ t, coreStep s = .next t := by
  by_cases hf : s.mfault = none
  · cases hp : s.phase with
    | idle => exact ⟨s, coreStep_idle hp⟩
    | prim =>
      obtain ⟨ops, hops, hsub⟩ := h.prim_index hp
      simpa [coreStep, hf, hp, primStep, hops] using performAt_answers hsub _
    | eRnd =>
      obtain ⟨hround, hsub, -⟩ := h.enc_round hp
      obtain ⟨r, hr⟩ := Option.isSome_iff_exists.1 hround
      simpa [coreStep, hf, hp, encryptStep, hr] using performAt_answers (ops := encryptOps r) hsub _
    | dFf =>
      obtain ⟨hround, -⟩ := h.dec_forward hp
      obtain ⟨r, hr⟩ := Option.isSome_iff_exists.1 hround
      simpa [coreStep, hf, hp, fastForwardStep, hr] using perform_answers _ s _
    | dRnd =>
      obtain ⟨hround, hsub, -⟩ := h.dec_round hp
      obtain ⟨r, hr⟩ := Option.isSome_iff_exists.1 hround
      simpa [coreStep, hf, hp, decryptStep, hr] using performAt_answers (ops := decryptOps r) hsub _
    | eFin | dFin => simpa [coreStep, hf, hp, finalMixStep] using perform_answers _ s _
  · exact ⟨s, coreStep_faulted hf⟩

theorem turnStep_answers {turn : Turn} {s : State} (h : s.Inv) : ∃ t, turnStep turn s = .next t := by
  cases turn with
  | core => exact coreStep_answers h
  | issue => exact issueEvent_answers s
  | driveCmd | driveBlk | driveKey | assertRst | assertRstAndIssue | releaseRst | readOutputs => exact ⟨_, rfl⟩

/-- Settles O59: over lawful tables a step is a turn, and no turn stops. -/
theorem stepNeverStops : Obligations.StepNeverStops := fun s h hl => by
  rw [step_turn hl]
  exact turnStep_answers (h.withSchedule _)

/-! ### ENC and DEC find their registers loaded -/

/-- Over loaded registers a running core performs a micro-op: both stay loaded, and no fault is raised (R208). -/
theorem CoreMove.keeps_loaded {s t : State} (h : CoreMove s t) (hp : s.phase ≠ .idle) (hblk : s.blk.present = true)
    (hkey : s.key.present = true) : t.blk.present = true ∧ t.key.present = true ∧ t.mfault = s.mfault := by
  have hfault : t.mfault = s.mfault := h.mfault_cases.resolve_left fun habsent => by simp [hblk, hkey] at habsent
  obtain ⟨m, ⟨hrun, -⟩ | ⟨u, hrun, hb, hk⟩⟩ := h.performs_microOp hp
  · simpa [hblk, hkey] using MicroOp.run_none hrun
  · obtain ⟨-, -, -, -, -, -, -, -, -, -, hblk', hkey'⟩ := MicroOp.run_fields hrun
    exact ⟨hb ▸ hblk' hblk, hk ▸ hkey' hkey, hfault⟩

/-- Settles O41: ENC and DEC seeded both registers, so the step that the invariant grants finds them loaded. -/
theorem encAndDecNeverFault : Obligations.EncAndDecNeverFault := fun s h hc => by
  obtain ⟨hblk, hkey, hf⟩ := h.seeded hc
  have hp : s.phase ≠ .idle := fun hidle => by simp [hidle, Phase.isCipher] at hc
  obtain ⟨t, hstep⟩ := coreStep_answers h
  obtain ⟨hf', -⟩ | ⟨-, hmove⟩ := coreStep_next hstep
  · exact absurd hf hf'
  · obtain ⟨hblk', hkey', hf'⟩ := hmove.keeps_loaded hp hblk hkey
    exact ⟨t, hstep, hf'.trans hf, hblk', hkey'⟩

end Sys2Proof.Machine
end

section
/-! Proofs about the length of a command's run (10_state.md §5, R38 to R43): each micro-step of the core is one of the
steps that remain, so the core's own micro-steps end the command in progress; from them O39 and O40. -/

namespace Sys2Proof.Machine

/-! ### A micro-step is one of those that remain -/

theorem MicroOp.run_remaining {m : MicroOp} {s u : State} (h : m.run s = some u) : u.remaining = s.remaining := by
  obtain ⟨hrc, -, hp, hsub, -⟩ := MicroOp.run_fields h
  simp only [State.remaining, hrc, hp, hsub, MicroOp.run_latchedOps h]

theorem toNat_sub_zero : (0 : BitVec 3).toNat = 0 := rfl

section
variable {u : State}

theorem primMove_remaining {ops : List MicroOp} (hp : u.phase = .prim) (hops : u.latchedOps = some ops)
    (hsub : u.sub.toNat < ops.length) (hlen : ops.length ≤ 5) : u.remaining = (primMove ops u).remaining + 1 := by
  have hops' : u.advanceSub.latchedOps = some ops := hops
  unfold primMove
  split_ifs with hlast
  · simp only [State.remaining, hp, hops, State.complete_phase, Option.getD_some]
    omega
  · simp only [State.remaining, hp, hops, hops', State.advanceSub_phase, State.advanceSub_sub, Option.getD_some,
      toNat_sub_succ (n := u.sub) (by omega)]
    omega

theorem encryptMove_remaining {r : Round} (hp : u.phase = .eRnd) (hrc : u.rc = Reg.loaded r) (hsub : u.sub.toNat < 4) :
    u.remaining = (encryptMove r u).remaining + 1 := by
  unfold encryptMove
  split_ifs with hend hmore
  · have h3 : u.sub.toNat = 3 := congrArg BitVec.toNat hend
    simp only [State.remaining, hp, hrc, h3, Reg.loaded_value, toNat_round_succ hmore, toNat_sub_zero]
    omega
  · have h3 : u.sub.toNat = 3 := congrArg BitVec.toNat hend
    simp only [State.remaining, hp, hrc, h3, Reg.loaded_value]
    omega
  · have hne : u.sub.toNat ≠ 3 := fun h => hend (BitVec.eq_of_toNat_eq h)
    simp only [State.remaining, hp, hrc, State.advanceSub_phase, State.advanceSub_sub, State.advanceSub_rc,
      Reg.loaded_value, toNat_sub_succ (n := u.sub) (by omega)]
    omega

theorem fastForwardMove_remaining {r : Round} (hp : u.phase = .dFf) (hrc : u.rc = Reg.loaded r) :
    u.remaining = (fastForwardMove r u).remaining + 1 := by
  have h31 : (31 : Round).toNat = 31 := rfl
  unfold fastForwardMove
  split_ifs with hmore
  · simp only [State.remaining, hp, hrc, Reg.loaded_value, toNat_round_succ hmore]
    omega
  · simp only [State.remaining, hp, hrc, Reg.loaded_value, toNat_sub_zero, h31]
    omega

theorem decryptMove_remaining {r : Round} (hp : u.phase = .dRnd) (hrc : u.rc = Reg.loaded r) (hsub : u.sub.toNat < 5) :
    u.remaining = (decryptMove r u).remaining + 1 := by
  unfold decryptMove
  split_ifs with hend hmore
  · have h4 : u.sub.toNat = 4 := congrArg BitVec.toNat hend
    simp only [State.remaining, hp, hrc, h4, Reg.loaded_value, toNat_round_pred hmore, toNat_sub_zero]
    omega
  · have h4 : u.sub.toNat = 4 := congrArg BitVec.toNat hend
    simp only [State.remaining, hp, hrc, h4, Reg.loaded_value]
    omega
  · have hne : u.sub.toNat ≠ 4 := fun h => hend (BitVec.eq_of_toNat_eq h)
    simp only [State.remaining, hp, hrc, State.advanceSub_phase, State.advanceSub_sub, State.advanceSub_rc,
      Reg.loaded_value, toNat_sub_succ (n := u.sub) (by omega)]
    omega

end

/-- R39: under the invariant a micro-step over loaded registers is one of the steps that remain. -/
theorem CoreMove.remaining_eq {s t : State} (h : CoreMove s t) (hi : s.Inv) (hp : s.phase ≠ .idle)
    (hblk : s.blk.present = true) (hkey : s.key.present = true) : s.remaining = t.remaining + 1 := by
  cases h with
  | wait hidle => exact absurd hidle hp
  | unloaded m _ hrun => simpa [hblk, hkey] using MicroOp.run_none hrun
  | prim ops m u hp hops hm hrun =>
    obtain ⟨-, -, hphase, hsub, -⟩ := MicroOp.run_fields hrun
    obtain ⟨hlt, -⟩ := List.getElem?_eq_some_iff.1 hm
    rw [← MicroOp.run_remaining hrun]
    exact primMove_remaining (hphase.trans hp) ((MicroOp.run_latchedOps hrun).trans hops) (hsub ▸ hlt)
      (length_of_latchedOps hops).2
  | encrypt r m u hp hround _ hrun =>
    obtain ⟨hrc, -, hphase, hsub, -⟩ := MicroOp.run_fields hrun
    obtain ⟨-, hlt, -⟩ := hi.enc_round hp
    rw [← MicroOp.run_remaining hrun]
    exact encryptMove_remaining (hphase.trans hp) (hrc.trans (roundNumber_some hround).1) (hsub ▸ hlt)
  | forward r u hp hround hrun =>
    obtain ⟨hrc, -, hphase, -⟩ := MicroOp.run_fields (m := .ksf r) hrun
    rw [← MicroOp.run_remaining (m := .ksf r) hrun]
    exact fastForwardMove_remaining (hphase.trans hp) (hrc.trans (roundNumber_some hround).1)
  | decrypt r m u hp hround _ hrun =>
    obtain ⟨hrc, -, hphase, hsub, -⟩ := MicroOp.run_fields hrun
    obtain ⟨-, hlt, -⟩ := hi.dec_round hp
    rw [← MicroOp.run_remaining hrun]
    exact decryptMove_remaining (hphase.trans hp) (hrc.trans (roundNumber_some hround).1) (hsub ▸ hlt)
  | final u hp hrun =>
    obtain hp | hp := hp <;> simp [State.remaining, hp]

/-- R38: a move that leaves the core idle is its completion, which sets done. -/
theorem CoreMove.ended {s t : State} (h : CoreMove s t) (hp : s.phase ≠ .idle) (ht : t.phase = .idle) : t.Ended := by
  cases h with
  | wait hidle => exact absurd hidle hp
  | unloaded => exact absurd ht hp
  | prim ops m u _ _ _ hrun =>
    obtain ⟨-, -, hphase, -⟩ := MicroOp.run_fields hrun
    unfold primMove at ht ⊢
    split_ifs at ht ⊢
    · exact ⟨rfl, rfl⟩
    · exact absurd (hphase.symm.trans ht) hp
  | encrypt r m u _ _ _ hrun =>
    obtain ⟨-, -, hphase, -⟩ := MicroOp.run_fields hrun
    unfold encryptMove at ht
    split_ifs at ht <;> exact absurd (hphase.symm.trans ht) hp
  | forward r u _ _ hrun =>
    obtain ⟨-, -, hphase, -⟩ := MicroOp.run_fields (m := .ksf r) hrun
    unfold fastForwardMove at ht
    split_ifs at ht
    exact absurd (hphase.symm.trans ht) hp
  | decrypt r m u _ _ _ hrun =>
    obtain ⟨-, -, hphase, -⟩ := MicroOp.run_fields hrun
    unfold decryptMove at ht
    split_ifs at ht <;> exact absurd (hphase.symm.trans ht) hp
  | final => exact ⟨rfl, rfl⟩

/-- A running core has a micro-step left (R39). -/
theorem State.Inv.remaining_eq_zero_iff {s : State} (h : s.Inv) : s.remaining = 0 ↔ s.phase = .idle := by
  unfold State.remaining
  cases hp : s.phase with
  | idle | eFin | dFin => simp
  | prim =>
    obtain ⟨ops, hops, hsub⟩ := h.prim_index hp
    simp [hops]
    omega
  | eRnd | dFf | dRnd => simp

/-! ### The micro-steps that remain end the command -/

/-- The core stays busy for `n` micro-steps and then stands idle without a fault, with err kept (R38, R40, R43). -/
def State.EndsAfter (n : Nat) (s : State) : Prop :=
  (∃ u, coreRun n s = .next u ∧ u.phase = .idle ∧ u.busy = false ∧ u.mfault = none ∧ u.err = s.err ∧
    (0 < n → u.Ended)) ∧
  ∀ k, k < n → ∃ v, coreRun k s = .next v ∧ v.busy = true ∧ v.done = false

theorem State.EndsAfter.of_step {s t : State} {n : Nat} (hstep : coreStep s = .next t) (hb : s.busy = true)
    (hd : s.done = false) (hend : t.phase = .idle → t.Ended) (h : t.EndsAfter n) : s.EndsAfter (n + 1) := by
  obtain ⟨⟨u, hu, hp, hub, hf, herr, hdone⟩, hbusy⟩ := h
  refine ⟨⟨u, (coreRun_succ hstep n).trans hu, hp, hub, hf, herr.trans (coreStep_err hstep), fun _ => ?_⟩,
    fun k hk => ?_⟩
  · obtain rfl | hn := Nat.eq_zero_or_pos n
    · cases hu
      exact hend hp
    · exact hdone hn
  · cases k with
    | zero => exact ⟨s, rfl, hb, hd⟩
    | succ k =>
      obtain ⟨v, hv, hvb⟩ := hbusy k (Nat.lt_of_succ_lt_succ hk)
      exact ⟨v, (coreRun_succ hstep k).trans hv, hvb⟩

/-- Induction on the micro-steps that remain. -/
theorem State.Inv.endsAfter_remaining {s : State} (h : s.Inv) (hf : s.mfault = none) (hblk : s.blk.present = true)
    (hkey : s.key.present = true) : s.EndsAfter s.remaining := by
  generalize hn : s.remaining = n
  induction n generalizing s with
  | zero =>
    have hp := h.remaining_eq_zero_iff.1 hn
    have hb : s.busy = false := by simpa [hp] using h.busy_iff
    exact ⟨⟨s, rfl, hp, hb, hf, rfl, nofun⟩, nofun⟩
  | succ n ih =>
    have hp : s.phase ≠ .idle := fun hidle => by simp [h.remaining_eq_zero_iff.2 hidle] at hn
    have hb : s.busy = true := h.busy_iff.2 hp
    obtain ⟨t, hstep⟩ := coreStep_answers h
    obtain ⟨hf', -⟩ | ⟨-, hmove⟩ := coreStep_next hstep
    · exact absurd hf hf'
    · obtain ⟨hblk', hkey', hf'⟩ := hmove.keeps_loaded hp hblk hkey
      have hleft : t.remaining = n := by have := hmove.remaining_eq h hp hblk hkey; omega
      exact .of_step hstep hb (h.busy_not_done hb) (hmove.ended hp)
        (ih (hmove.keeps_inv h hf) (hf'.trans hf) hblk' hkey' hleft)

/-- Settles O40: a busy core has a micro-step left, so its run of the steps that remain completes the command. -/
theorem busyCoreEndsItsCommand : Obligations.BusyCoreEndsItsCommand := fun s h hb hf hblk hkey => by
  obtain ⟨⟨u, hu, -, -, -, herr, hend⟩, hbusy⟩ := h.endsAfter_remaining hf hblk hkey
  have hpos : 0 < s.remaining :=
    Nat.pos_of_ne_zero fun h0 => h.busy_iff.1 hb (h.remaining_eq_zero_iff.1 h0)
  refine ⟨u, hu, hend hpos, herr, fun n hn => ?_⟩
  obtain ⟨v, hv, hvb, -⟩ := hbusy n hn
  exact ⟨v, hv, hvb⟩

/-! ### Every command ends after its count -/

/-- At its acceptance all of a command's micro-steps remain (R39). -/
theorem acceptance_remaining {i : Instr} {s : State} (hw : i.wf = true) (hp : s.phase = .idle) :
    (acceptance i s).remaining = microSteps i := by
  have prim {c : Instr} {s : State} {ops : List MicroOp} (hc : c.wf = true) (hops : primOps c = some ops) :
      (s.startPrim c).remaining = ops.length := by
    have hl : (s.startPrim c).latchedOps = some ops := (latchedOps_encode hc rfl).trans hops
    simp [State.remaining, hl]
  cases i with
  | nop | ldb | ldk => simp [acceptance, State.remaining, hp, microSteps]
  | ark | pl | ksf | ksi | sl | rnde | rndd => exact prim hw rfl
  | enc | dec => rfl

/-- A run of micro-steps carries the frame of a micro-step through. -/
theorem coreRun_withFrameOf (n : Nat) (s o : State) :
    coreRun n (s.withFrameOf o) = mapNext (·.withFrameOf o) (coreRun n s) := by
  induction n generalizing s with
  | zero => rfl
  | succ n ih =>
    simp only [coreRun, coreStep_withFrameOf]
    cases coreStep s with
    | next t => exact ih t
    | fault f => rfl
    | refused r => rfl

theorem State.EndsAfter.withFrameOf {n : Nat} {s : State} (h : s.EndsAfter n) (o : State) :
    (s.withFrameOf o).EndsAfter n := by
  obtain ⟨⟨u, hu, hp, hb, hf, -, hend⟩, hbusy⟩ := h
  refine ⟨⟨u.withFrameOf o, ?_, hp, hb, hf, rfl, hend⟩, fun k hk => ?_⟩
  · rw [coreRun_withFrameOf, hu]; rfl
  · obtain ⟨v, hv, hvb⟩ := hbusy k hk
    exact ⟨v.withFrameOf o, by rw [coreRun_withFrameOf, hv]; rfl, hvb⟩

theorem acceptance_loaded (i : Instr) {s : State} (hblk : s.blk.present = true) (hkey : s.key.present = true) :
    (acceptance i s).blk.present = true ∧ (acceptance i s).key.present = true := by
  cases i with
  | ldb => exact ⟨rfl, hkey⟩
  | ldk => exact ⟨hblk, rfl⟩
  | enc | dec => exact ⟨rfl, rfl⟩
  | nop | ark | sl | pl | ksf | ksi | rnde | rndd => exact ⟨hblk, hkey⟩

/-- NOP, LDB and LDK, which have no micro-step, end at their acceptance (R35, R39). -/
theorem acceptance_ended {i : Instr} {s : State} (h : microSteps i = 0) (hb : s.busy = false) :
    (acceptance i s).Ended := by
  cases i with
  | nop | ldb | ldk => exact ⟨hb, rfl⟩
  | ark | sl | pl | ksf | ksi | rnde | rndd | enc | dec => cases h

theorem acceptance_endsAfter_of_low {i : Instr} {s : State} (hw : i.wf = true) (hs : s.Ready) (hr : s.rst = false)
    (hblk : (acceptance i s.clearStatus).blk.present = true) (hkey : (acceptance i s.clearStatus).key.present = true) :
    (acceptance i s.clearStatus).EndsAfter (microSteps i) := by
  obtain ⟨hp, hb, hf⟩ := hs
  have hcount : (acceptance i s.clearStatus).remaining = microSteps i := acceptance_remaining hw hp
  rw [← hcount]
  exact (acceptance_inv hw hp hb hf hr).endsAfter_remaining ((acceptance_mfault _ _).trans hf) hblk hkey

/-- An acceptance action does the same whatever rst holds (R35). -/
theorem acceptance_ignores_rst (i : Instr) (s : State) :
    acceptance i s = (acceptance i { s with rst := false }).withFrameOf (acceptance i s) := by
  cases i <;> rfl

/-- An accepted command that finds or makes both registers loaded ends after its count, whatever rst, which no
micro-step reads. -/
theorem acceptance_endsAfter {i : Instr} {s : State} (hw : i.wf = true) (hs : s.Ready)
    (hblk : (acceptance i s.clearStatus).blk.present = true) (hkey : (acceptance i s.clearStatus).key.present = true) :
    (acceptance i s.clearStatus).EndsAfter (microSteps i) := by
  rw [acceptance_ignores_rst] at hblk hkey ⊢
  exact (acceptance_endsAfter_of_low (s := { s with rst := false }) hw hs rfl hblk hkey).withFrameOf _

/-- Settles O39: the run of `acceptance_endsAfter`, and the commands that end at once. -/
theorem everyCommandEndsAfterItsMicroSteps : Obligations.EveryCommandEndsAfterItsMicroSteps :=
  fun s i hs hblk hkey hw => by
    obtain ⟨hblk', hkey'⟩ := acceptance_loaded i (s := s.clearStatus) hblk hkey
    obtain ⟨⟨u, hu, hp, -, hf, herr, hend⟩, hbusy⟩ := acceptance_endsAfter hw hs hblk' hkey'
    refine ⟨_, exec_accepted hw hs.2.1, hbusy, u, hu, ?_, hp, herr.trans (acceptance_err i _), hf⟩
    obtain h0 | hpos := Nat.eq_zero_or_pos (microSteps i)
    · rw [h0] at hu
      cases hu
      exact acceptance_ended h0 hs.2.1
    · exact hend hpos

end Sys2Proof.Machine
end

section
/-! Proofs about the primitive commands from issue to end (40_register_ops.md to 45_decrypt.md): a started command
performs its micro-op list and completes, and from that O16, O17, O21, O24, O28, O29; with a register absent its first
micro-op raises the model fault, O56. -/

namespace Sys2Proof.Machine

/-! ### A started command performs its list -/

/-- The micro-ops of a list one after another, on the data registers alone. -/
def runOps : List MicroOp → State → Option State
  | [], s => some s
  | m :: ms, s => (m.run s).bind (runOps ms)

@[simp] theorem runOps_nil (s : State) : runOps [] s = some s := rfl

theorem runOps_cons {m : MicroOp} {s v : State} (h : m.run s = some v) (ms : List MicroOp) :
    runOps (m :: ms) s = runOps ms v := by
  simp [runOps, h]

/-- The same state with another SUB. -/
abbrev State.withSub (s : State) (n : BitVec 3) : State := { s with sub := n }

/-- No micro-op reads or writes SUB. -/
theorem MicroOp.run_withSub (m : MicroOp) (s : State) (n : BitVec 3) :
    m.run (s.withSub n) = (m.run s).map (·.withSub n) := by
  obtain ⟨⟨_, blk⟩, ⟨_, key⟩⟩ := s
  cases m <;> cases blk <;> cases key <;> rfl

theorem runOps_withSub {ms : List MicroOp} {s u : State} (h : runOps ms s = some u) (n : BitVec 3) :
    runOps ms (s.withSub n) = some (u.withSub n) := by
  induction ms generalizing s with
  | nil => cases h; rfl
  | cons m ms ih =>
    obtain ⟨v, hv, hu⟩ := Option.bind_eq_some_iff.1 h
    rw [runOps_cons (v := v.withSub n) (by rw [m.run_withSub, hv]; rfl)]
    exact ih hu

/-- A sequencer that performs `ops[SUB]` and advances SUB up to the last index runs the rest of its list, once the
micro-ops `before` are performed, and then makes its last move. What it reads beside SUB is outside the data registers,
so each step leaves it in place. -/
theorem coreRun_ops {ops before rest : List MicroOp} {move : State → State} {s u : State}
    (hstep : ∀ blk key n, coreStep { s with blk := blk, key := key, sub := n } =
      performAt ops { s with blk := blk, key := key, sub := n } move)
    (hadvance : ∀ v : State, v.sub.toNat + 1 < ops.length → move v = v.advanceSub) (hlen : ops.length ≤ 5)
    (hops : ops = before ++ rest) (hsub : s.sub.toNat = before.length) (hne : rest ≠ [])
    (hrun : runOps rest s = some u) :
    coreRun rest.length s = .next (move (u.withSub (BitVec.ofNat 3 (ops.length - 1)))) := by
  induction rest generalizing before s u with
  | nil => exact absurd rfl hne
  | cons m ms ih =>
    obtain ⟨v, hv, hu⟩ := Option.bind_eq_some_iff.1 hrun
    obtain ⟨-, -, -, hvsub, -⟩ := MicroOp.run_fields hv
    have hcount : ops.length = before.length + (ms.length + 1) := by simp [hops]
    have hm : ops[s.sub.toNat]? = some m := by simp [hops, hsub]
    have hfirst : coreStep s = .next (move v) := (hstep s.blk s.key s.sub).trans
      ((performAt_some hm move).trans (perform_some hv move))
    rw [List.length_cons, coreRun_succ hfirst]
    cases ms with
    | nil =>
      cases hu
      have hlast : u.withSub (BitVec.ofNat 3 (ops.length - 1)) = u := by
        rw [hcount, List.length_nil, Nat.zero_add, Nat.add_sub_cancel, ← hsub, ← hvsub, BitVec.ofNat_toNat,
          BitVec.setWidth_eq]
      rw [hlast]
      rfl
    | cons m' ms =>
      have hmore : v.sub.toNat + 1 < ops.length := by rw [hvsub, hsub, hcount, List.length_cons]; omega
      have hindex : v.advanceSub.sub.toNat = (before ++ [m]).length := by
        rw [State.advanceSub_sub, toNat_sub_succ (by omega), hvsub, hsub, List.length_append, List.length_singleton]
      have hkept : ∀ blk key n, ({ v.advanceSub with blk := blk, key := key, sub := n } : State) =
          { s with blk := blk, key := key, sub := n } := by
        obtain ⟨-, -, ⟨b, rfl⟩⟩ | ⟨-, -, ⟨k, rfl⟩⟩ := m.run_some hv <;> exact fun _ _ _ => rfl
      rw [hadvance v hmore]
      exact ih (u := u.withSub (v.sub + 1)) (fun blk key n => by rw [hkept]; exact hstep blk key n)
        (by simp [hops]) hindex (by simp) (runOps_withSub hu _)

/-- The micro-step in PRIM, at every SUB (R37). -/
theorem coreStep_prim_list {s : State} {ops : List MicroOp} (hf : s.mfault = none) (hp : s.phase = .prim)
    (hl : s.latchedOps = some ops) : coreStep s = performAt ops s (primMove ops) := by
  simp [coreStep, hf, hp, primStep, hl]

/-- A primitive command from its acceptance to its end (R35 to R38). -/
theorem coreRun_startPrim {s u : State} {c : Instr} {ops : List MicroOp} (hw : c.wf = true)
    (hops : primOps c = some ops) (hf : s.mfault = none) (hrun : runOps ops (s.startPrim c) = some u) :
    coreRun ops.length (s.startPrim c) = .next (u.withSub (BitVec.ofNat 3 (ops.length - 1))).complete := by
  obtain ⟨hpos, hlen⟩ := primOps_length hops
  have hl : (s.startPrim c).latchedOps = some ops := (latchedOps_encode hw rfl).trans hops
  have hrest := coreRun_ops (s := s.startPrim c) (before := []) (fun _ _ _ => coreStep_prim_list hf rfl hl)
    (fun v hv => if_neg (Nat.ne_of_lt hv)) hlen rfl rfl (List.ne_nil_of_length_pos hpos) hrun
  rw [hrest, primMove, if_pos ?_]
  show (BitVec.ofNat 3 (ops.length - 1)).toNat + 1 = ops.length
  rw [BitVec.toNat_ofNat]
  omega

/-- A command of one micro-op ends in one micro-step, with SUB still 0. -/
theorem coreRun_startPrim_one {s u : State} {c : Instr} {m : MicroOp} (hw : c.wf = true) (hops : primOps c = some [m])
    (hf : s.mfault = none) (hrun : m.run (s.startPrim c) = some u) :
    coreRun 1 (s.startPrim c) = .next (u.withSub 0).complete :=
  coreRun_startPrim hw hops hf (runOps_cons hrun [])

/-! ### The primitive commands over loaded registers -/

/-- Settles O16: the one micro-op of ARK is µARK. -/
theorem arkMixesHighKeyBits : Obligations.ArkMixesHighKeyBits := fun s ⟨hp, hb, hf⟩ hblk hkey => by
  have hrun := microArk_loaded (s := s.clearStatus.startPrim .ark) hblk hkey
  refine ⟨_, exec_accepted rfl hb, ?_⟩
  rw [hp, hb]
  exact coreRun_startPrim_one (s := s.clearStatus) (c := .ark) (m := .ark) rfl rfl hf hrun

/-- Settles O17: the one micro-op of SL is µSUB with the table T, lane by lane. -/
theorem slSubstitutesEveryLane : Obligations.SlSubstitutesEveryLane := fun s t ⟨hp, hb, hf⟩ hblk => by
  have hrun := microSub_loaded (s := (s.clearStatus.setTsel t).startPrim (.sl t)) hblk
  refine ⟨_, _, exec_accepted rfl hb, coreRun_startPrim_one (m := .sub) rfl rfl hf hrun, ?_, rfl,
    fun i => lane_sLayer (selectTable s.rom t) s.blk.value i.val i.isLt⟩
  rw [hp, hb]
  rfl

/-- Settles O21: the one micro-op of PL is µPERM. -/
theorem plMovesEveryBit : Obligations.PlMovesEveryBit := fun s ⟨hp, hb, hf⟩ hblk => by
  have hrun := microPerm_loaded (s := s.clearStatus.startPrim .pl) hblk
  refine ⟨_, _, exec_accepted rfl hb, coreRun_startPrim_one (m := .perm) rfl rfl hf hrun, ?_, rfl,
    getLsbD_pLayer s.blk.value⟩
  rw [hp, hb]
  rfl

/-- Settles O24: the one micro-op of KSF and of KSI is the schedule step with the command's R. -/
theorem ksfAndKsiStepTheKey : Obligations.KsfAndKsiStepTheKey := fun s r ⟨hp, hb, hf⟩ hkey hr => by
  have hforward := microKsf_loaded (s := s.clearStatus.startPrim (.ksf r)) r hkey
  have hinverse := microKsi_loaded (s := s.clearStatus.startPrim (.ksi r)) r hkey
  refine ⟨⟨_, exec_accepted hr hb, ?_⟩, ⟨_, exec_accepted hr hb, ?_⟩⟩
  · rw [hp, hb]
    exact coreRun_startPrim_one (s := s.clearStatus) (c := .ksf r) (m := .ksf r) hr rfl hf hforward
  · rw [hp, hb]
    exact coreRun_startPrim_one (s := s.clearStatus) (c := .ksi r) (m := .ksi r) hr rfl hf hinverse

/-- The same state with loaded data registers. -/
def State.withData (s : State) (b : Block) (k : Key) : State := { s with blk := Reg.loaded b, key := Reg.loaded k }

theorem State.withData_self {s : State} (hblk : s.blk.present = true) (hkey : s.key.present = true) :
    s.withData s.blk.value s.key.value = s := by
  obtain ⟨⟨_, _⟩, ⟨_, _⟩⟩ := s
  cases hblk
  cases hkey
  rfl

section
variable (s : State) (b : Block) (k : Key)

@[simp] theorem run_ark_withData : MicroOp.ark.run (s.withData b k) = some (s.withData (keyMix k b) k) := rfl

@[simp] theorem run_sub_withData :
    MicroOp.sub.run (s.withData b k) = some (s.withData (sLayer (selectTable s.rom s.tsel) b) k) := rfl

@[simp] theorem run_perm_withData : MicroOp.perm.run (s.withData b k) = some (s.withData (pLayer b) k) := rfl

@[simp] theorem run_ksf_withData (r : Round) :
    (MicroOp.ksf r).run (s.withData b k) = some (s.withData b (ksForward s.rom r k)) := rfl

@[simp] theorem run_ksi_withData (r : Round) :
    (MicroOp.ksi r).run (s.withData b k) = some (s.withData b (ksInverse s.rom r k)) := rfl

end

section
variable {s : State} (hblk : s.blk.present = true) (hkey : s.key.present = true)
include hblk hkey

/-- The four micro-ops of a forward round over loaded registers (R140). -/
theorem runOps_encryptOps (ht : s.tsel = .fwd) (r : Round) :
    runOps (encryptOps r) s = some (s.withData
      (pLayer (sLayer s.rom.fwd (keyMix s.key.value s.blk.value))) (ksForward s.rom r s.key.value)) := by
  conv_lhs => rw [← State.withData_self hblk hkey]
  simp [runOps, encryptOps, ht, selectTable]

/-- The five micro-ops of an inverse round over loaded registers (R160). -/
theorem runOps_decryptOps (ht : s.tsel = .inv) (r : Round) :
    runOps (decryptOps r) s = some (s.withData
      (sLayer s.rom.inv (pLayer (pLayer (keyMix s.key.value s.blk.value)))) (ksInverse s.rom r s.key.value)) := by
  conv_lhs => rw [← State.withData_self hblk hkey]
  simp [runOps, decryptOps, ht, selectTable]

end

/-- Settles O28: the list of RNDE is the micro-ops of a forward round. -/
theorem rndeRunsOneForwardRound : Obligations.RndeRunsOneForwardRound := fun s r ⟨hp, hb, hf⟩ hblk hkey hr => by
  have hrun := runOps_encryptOps (s := (s.clearStatus.setTsel .fwd).startPrim (.rnde r)) hblk hkey rfl r
  refine ⟨_, exec_accepted hr hb, ?_⟩
  rw [hp, hb]
  exact coreRun_startPrim (s := s.clearStatus.setTsel .fwd) (c := .rnde r) hr rfl hf hrun

/-- Settles O29: the list of RNDD is the micro-ops of an inverse round. -/
theorem rnddRunsOneInverseRound : Obligations.RnddRunsOneInverseRound := fun s r ⟨hp, hb, hf⟩ hblk hkey hr => by
  have hrun := runOps_decryptOps (s := (s.clearStatus.setTsel .inv).startPrim (.rndd r)) hblk hkey rfl r
  refine ⟨_, exec_accepted hr hb, ?_⟩
  rw [hp, hb]
  exact coreRun_startPrim (s := s.clearStatus.setTsel .inv) (c := .rndd r) hr rfl hf hrun

/-! ### A primitive command before a load -/

theorem status_eq_one {s : State} (hb : s.busy = true) (hd : s.done = false) (he : s.err = .ok) :
    s.status = 0b0001 := by
  rw [State.status, hb, hd, he]
  decide

/-- What the acceptance of a primitive command sets up (R35): its own list from index 0, with the status 0001 and the
data registers as they were. -/
theorem acceptance_prim {i : Instr} (h : (primOps i).isSome) (s : State) :
    (acceptance i s.clearStatus).phase = .prim ∧ (acceptance i s.clearStatus).sub = 0 ∧
    (acceptance i s.clearStatus).cmdl = Reg.loaded (encode i) ∧ (acceptance i s.clearStatus).status = 0b0001 ∧
    (acceptance i s.clearStatus).blk = s.blk ∧ (acceptance i s.clearStatus).key = s.key := by
  cases i with
  | ark | sl | pl | ksf | ksi | rnde | rndd => exact ⟨rfl, rfl, rfl, status_eq_one rfl rfl rfl, rfl, rfl⟩
  | nop | ldb | ldk | enc | dec => cases h

/-- The first micro-op of a primitive command reads BLK unless that is KSF or KSI, and KEY unless it is SL or PL (R233).
-/
theorem first_microOp_faults {i : Instr} {s : State} (hw : i.wf = true) (hprim : (primOps i).isSome)
    (h : (s.blk.present = false ∧ i ∉ roundsUp.map Instr.ksf ++ roundsUp.map Instr.ksi) ∨
      (s.key.present = false ∧ (∀ t, i ≠ .sl t) ∧ i ≠ .pl)) :
    ∃ m ms, primOps i = some (m :: ms) ∧ m.run s = none := by
  have ark : MicroOp.ark.run s = none := microArk_eq_none (h.imp And.left And.left)
  cases i with
  | ark | rnde | rndd => exact ⟨_, _, rfl, ark⟩
  | sl t =>
    obtain ⟨hblk, -⟩ | ⟨-, hne, -⟩ := h
    · exact ⟨_, _, rfl, microSub_eq_none hblk⟩
    · exact absurd rfl (hne t)
  | pl =>
    obtain ⟨hblk, -⟩ | ⟨-, -, hne⟩ := h
    · exact ⟨_, _, rfl, microPerm_eq_none hblk⟩
    · exact absurd rfl hne
  | ksf r =>
    obtain ⟨-, hmem⟩ | ⟨hkey, -⟩ := h
    · exact absurd (by simp [(mem_roundsUp_iff r).2 hw]) hmem
    · exact ⟨_, _, rfl, microKsf_eq_none r hkey⟩
  | ksi r =>
    obtain ⟨-, hmem⟩ | ⟨hkey, -⟩ := h
    · exact absurd (by simp [(mem_roundsUp_iff r).2 hw]) hmem
    · exact ⟨_, _, rfl, microKsi_eq_none r hkey⟩
  | nop | ldb | ldk | enc | dec => cases hprim

/-- Settles O56: the command is accepted, and the first micro-op of its list finds the register absent. -/
theorem primitiveBeforeLoadFaults : Obligations.PrimitiveBeforeLoadFaults := fun s i ⟨_, hb, hf⟩ hw hprim h => by
  obtain ⟨hp, hsub, hcmdl, hstatus, hblk, hkey⟩ := acceptance_prim hprim s
  rw [← hblk, ← hkey] at h
  obtain ⟨m, ms, hops, hrun⟩ := first_microOp_faults hw hprim h
  have hstep := coreStep_prim ((acceptance_mfault i s.clearStatus).trans hf) hp
    ((latchedOps_encode hw hcmdl).trans hops) (m := m) (by rw [hsub]; rfl)
  exact ⟨_, _, exec_accepted hw hb, hstatus, hstep.trans (perform_none hrun _), rfl⟩

end Sys2Proof.Machine
end

section
/-! Proofs about ENC and DEC from issue to end (44_encrypt.md, 45_decrypt.md): a round of each sequencer is a round of
the function, the rounds chain, and the final mix completes; from them O32, O33 and O35. -/

namespace Sys2Proof.Machine

/-- Runs of `k` micro-steps from state to state along a family of states. -/
theorem coreRun_chain {k n : Nat} {f : Nat → State} (h : ∀ i, i < n → coreRun k (f i) = .next (f (i + 1))) :
    coreRun (k * n) (f 0) = .next (f n) := by
  induction n with
  | zero => rfl
  | succ n ih =>
    rw [Nat.mul_succ, coreRun_add (ih fun i hi => h i (Nat.lt_succ_of_lt hi)), h n (Nat.lt_succ_self n)]

/-- The final key-mix of ENC and of DEC completes the command (R142, R162). -/
theorem coreRun_final {s : State} (hf : s.mfault = none) (hp : s.phase = .eFin ∨ s.phase = .dFin)
    (hblk : s.blk.present = true) (hkey : s.key.present = true) :
    coreRun 1 s = .next ({ s with blk := Reg.loaded (keyMix s.key.value s.blk.value) } : State).complete :=
  coreRun_succ (coreStep_final hf hp (microArk_loaded hblk hkey)) 0

theorem coreRun_one {s t : State} (h : coreStep s = .next t) : coreRun 1 s = .next t := coreRun_succ h 0

/-- The round operand of round n + 1 (R73). -/
theorem toNat_roundNumber {n : Nat} (h : n < 31) : (BitVec.ofNat 5 (n + 1)).toNat = n + 1 := by
  rw [BitVec.toNat_ofNat]
  omega

theorem ofNat_succ_ne_zero {n : Nat} (h : n < 31) : BitVec.ofNat 5 (n + 1) ≠ 0 := fun h0 => by
  have := toNat_roundNumber h
  rw [h0] at this
  cases this

/-! ### The rounds of ENC as a function -/

/-- The pair of block and key after the first n rounds of R143. -/
def encryptRounds (tables : Tables) (bk : Block × Key) (n : Nat) : Block × Key :=
  (List.range n).foldl (fun bk i => encryptRound tables bk (BitVec.ofNat 5 (i + 1))) bk

theorem encryptRounds_succ (tables : Tables) (bk : Block × Key) (n : Nat) :
    encryptRounds tables bk (n + 1) = encryptRound tables (encryptRounds tables bk n) (BitVec.ofNat 5 (n + 1)) := by
  simp [encryptRounds, List.range_succ]

theorem encryptFn_eq_rounds (tables : Tables) (b : Block) (k : Key) :
    encryptFn tables b k = mixPair (encryptRounds tables (b, k) 31) := by
  rw [encryptFn_eq, roundsUp, List.foldl_map, encryptRounds]

/-- The block after n rounds, each mixing its own round key (R125, R143). -/
def encryptBlock (tables : Tables) (b : Block) (k : Key) (n : Nat) : Block :=
  (List.range n).foldl (fun b i => pLayer (sLayer tables.fwd (b ^^^ (keyState tables k i).extractLsb' 16 64))) b

theorem encryptBlock_succ (tables : Tables) (b : Block) (k : Key) (n : Nat) :
    encryptBlock tables b k (n + 1) =
      pLayer (sLayer tables.fwd (keyMix (keyState tables k n) (encryptBlock tables b k n))) := by
  simp [encryptBlock, List.range_succ, keyMix, xorWith, roundKey]

/-- R125: the key state in round n + 1 is K_(n+1). -/
theorem encryptRounds_eq (tables : Tables) (b : Block) (k : Key) (n : Nat) :
    encryptRounds tables (b, k) n = (encryptBlock tables b k n, keyState tables k n) := by
  induction n with
  | zero => rfl
  | succ n ih =>
    rw [encryptRounds_succ, ih, encryptBlock_succ, encryptRound, keyState]

/-- Settles O35: after 31 rounds the pair is the folded block and K_32, which the final mix adds. -/
theorem encryptUsesTheKeySequence : Obligations.EncryptUsesTheKeySequence := fun tables b k => by
  rw [encryptFn_eq_rounds, encryptRounds_eq]
  exact ⟨rfl, rfl⟩

/-! ### The ENC sequencer -/

/-- ENC at the start of round r, over the block and key given (R142). -/
def State.encrypting (s : State) (bk : Block × Key) (r : Round) : State :=
  { s.withData bk.1 bk.2 with phase := .eRnd, tsel := .fwd, rc := Reg.loaded r, sub := 0 }

theorem coreStep_eRnd_list {s : State} {r : Round} (hf : s.mfault = none) (hp : s.phase = .eRnd)
    (hround : s.roundNumber? = some r) : coreStep s = performAt (encryptOps r) s (encryptMove r) := by
  simp [coreStep, hf, hp, encryptStep, hround]

/-- The four micro-steps of an ENC round are the round of R143, and the move after µKSF follows. -/
theorem coreRun_encryptRound {s : State} (hf : s.mfault = none) (bk : Block × Key) {r : Round} (hr : r ≠ 0) :
    coreRun 4 (s.encrypting bk r) =
      .next (encryptMove r ((s.encrypting (encryptRound s.rom bk r) r).withSub 3)) :=
  coreRun_ops (s := s.encrypting bk r) (before := [])
    (fun _ _ _ => coreStep_eRnd_list hf rfl (roundNumber_loaded rfl hr))
    (fun v hv => if_neg fun h3 => by simp [h3, encryptOps] at hv) (Nat.le_succ 4) rfl rfl (List.cons_ne_nil _ _)
    (runOps_encryptOps (s := s.encrypting bk r) rfl rfl rfl r)

/-- Rounds 1 to 30 of ENC chain. -/
theorem coreRun_encryptRounds {s : State} (hf : s.mfault = none) (bk : Block × Key) :
    coreRun 120 (s.encrypting bk 1) = .next (s.encrypting (encryptRounds s.rom bk 30) 31) := by
  refine coreRun_chain (k := 4) (n := 30)
    (f := fun n => s.encrypting (encryptRounds s.rom bk n) (BitVec.ofNat 5 (n + 1))) fun n hn => ?_
  rw [coreRun_encryptRound hf _ (ofNat_succ_ne_zero (by omega)), encryptRounds_succ, encryptMove, if_pos rfl,
    if_pos (by rw [toNat_roundNumber (by omega)]; omega)]
  rw [BitVec.ofNat_add (x := n + 1)]
  rfl

/-- ENC from its first round to its end (R142 to R144). -/
theorem coreRun_encrypting {s : State} (hf : s.mfault = none) (b : Block) (k : Key) :
    coreRun 125 (s.encrypting (b, k) 1) =
      .next (((s.encrypting (encryptFn s.rom b k) 31).withSub 3)).complete := by
  rw [show 125 = 120 + (4 + 1) from rfl, coreRun_add (coreRun_encryptRounds hf (b, k)),
    coreRun_add (coreRun_encryptRound hf _ (by decide)), encryptFn_eq_rounds, encryptRounds_succ _ _ 30]
  exact coreRun_final (s := encryptMove 31 ((s.encrypting _ 31).withSub 3)) hf (.inl rfl) rfl rfl

/-- Settles O32: the acceptance of ENC is round 1 over the sampled ports, and the run is that of the sequencer. -/
theorem encComputesEncrypt : Obligations.EncComputesEncrypt := fun s ⟨hp, hb, hf⟩ => by
  refine ⟨_, exec_accepted rfl hb, ?_⟩
  rw [hp, hb]
  exact coreRun_encrypting (s := acceptance .enc s.clearStatus) hf s.dinBlk s.dinKey

/-! ### The DEC sequencer: the fast-forward -/

/-- DEC in its fast-forward at round r (R162). -/
def State.forwarding (s : State) (b : Block) (k : Key) (r : Round) : State :=
  { s.withData b k with phase := .dFf, tsel := .fwd, rc := Reg.loaded r, sub := 0 }

/-- DEC at the start of its round r, counting down (R162). -/
def State.decrypting (s : State) (bk : Block × Key) (r : Round) : State :=
  { s.withData bk.1 bk.2 with phase := .dRnd, tsel := .inv, rc := Reg.loaded r, sub := 0 }

theorem lastKey_eq_keyState (tables : Tables) (k : Key) : lastKey tables k = keyState tables k 31 := by
  rw [← encryptFn_snd tables 0 k, encryptFn_eq_rounds, encryptRounds_eq]
  rfl

theorem coreStep_forwarding {s : State} (hf : s.mfault = none) (b : Block) (k : Key) {r : Round} (hr : r ≠ 0) :
    coreStep (s.forwarding b k r) = .next (fastForwardMove r (s.forwarding b (ksForward s.rom r k) r)) :=
  coreStep_dFf (s := s.forwarding b k r) hf rfl rfl (by simpa [roundOk] using hr) (microKsf_loaded r rfl)

/-- The fast-forward walks the key sequence of R125, and its last step turns to the rounds (R162). -/
theorem coreRun_fastForward {s : State} (hf : s.mfault = none) (b : Block) (k : Key) :
    coreRun 31 (s.forwarding b k 1) = .next (s.decrypting (b, lastKey s.rom k) 31) := by
  have hwalk : coreRun (1 * 30) (s.forwarding b k 1) = .next (s.forwarding b (keyState s.rom k 30) 31) := by
    refine coreRun_chain (f := fun n => s.forwarding b (keyState s.rom k n) (BitVec.ofNat 5 (n + 1))) fun n hn => ?_
    refine coreRun_one ((coreStep_forwarding hf b _ (ofNat_succ_ne_zero (by omega))).trans ?_)
    rw [fastForwardMove, if_pos (by rw [toNat_roundNumber (by omega)]; omega), BitVec.ofNat_add (x := n + 1)]
    rfl
  rw [show 31 = 1 * 30 + 1 from rfl, coreRun_add hwalk, lastKey_eq_keyState]
  exact coreRun_one (coreStep_forwarding hf b _ (by decide))

/-! ### The rounds of DEC -/

/-- The pair of block and key after the first n rounds of R163, counting down from 31. -/
def decryptRounds (tables : Tables) (bk : Block × Key) (n : Nat) : Block × Key :=
  (List.range n).foldl (fun bk i => decryptRound tables bk (BitVec.ofNat 5 (31 - i))) bk

theorem decryptRounds_succ (tables : Tables) (bk : Block × Key) (n : Nat) :
    decryptRounds tables bk (n + 1) = decryptRound tables (decryptRounds tables bk n) (BitVec.ofNat 5 (31 - n)) := by
  simp [decryptRounds, List.range_succ]

theorem decryptFn_eq_rounds (tables : Tables) (c : Block) (k : Key) :
    decryptFn tables c k = mixPair (decryptRounds tables (c, lastKey tables k) 31) := by
  rw [decryptFn_eq, roundsUp_reverse, List.foldl_map, decryptRounds]

theorem coreStep_dRnd_list {s : State} {r : Round} (hf : s.mfault = none) (hp : s.phase = .dRnd)
    (hround : s.roundNumber? = some r) : coreStep s = performAt (decryptOps r) s (decryptMove r) := by
  simp [coreStep, hf, hp, decryptStep, hround]

/-- The five micro-steps of a DEC round are the round of R163, and the move after µKSI follows. -/
theorem coreRun_decryptRound {s : State} (hf : s.mfault = none) (bk : Block × Key) {r : Round} (hr : r ≠ 0) :
    coreRun 5 (s.decrypting bk r) =
      .next (decryptMove r ((s.decrypting (decryptRound s.rom bk r) r).withSub 4)) :=
  coreRun_ops (s := s.decrypting bk r) (before := [])
    (fun _ _ _ => coreStep_dRnd_list hf rfl (roundNumber_loaded rfl hr))
    (fun v hv => if_neg fun h4 => by simp [h4, decryptOps] at hv) (Nat.le_refl 5) rfl rfl (List.cons_ne_nil _ _)
    (runOps_decryptOps (s := s.decrypting bk r) rfl rfl rfl r)

/-- Rounds 31 to 2 of DEC chain. -/
theorem coreRun_decryptRounds {s : State} (hf : s.mfault = none) (bk : Block × Key) :
    coreRun 150 (s.decrypting bk 31) = .next (s.decrypting (decryptRounds s.rom bk 30) 1) := by
  refine coreRun_chain (k := 5) (n := 30)
    (f := fun n => s.decrypting (decryptRounds s.rom bk n) (BitVec.ofNat 5 (31 - n))) fun n hn => ?_
  have hr : (BitVec.ofNat 5 (31 - n)).toNat = 31 - n := by rw [BitVec.toNat_ofNat]; omega
  have hnext : BitVec.ofNat 5 (31 - n) - 1 = BitVec.ofNat 5 (31 - (n + 1)) := by
    apply BitVec.eq_of_toNat_eq
    rw [toNat_round_pred (by omega), hr, BitVec.toNat_ofNat]
    omega
  rw [coreRun_decryptRound hf _ (by bv_omega), decryptRounds_succ, decryptMove, if_pos rfl,
    if_pos (by omega), hnext]
  rfl

/-- DEC from the acceptance to its end (R162 to R164). -/
theorem coreRun_decrypting {s : State} (hf : s.mfault = none) (c : Block) (k : Key) :
    coreRun 187 (s.forwarding c k 1) =
      .next (((s.decrypting (decryptFn s.rom c k) 0).withSub 4)).complete := by
  rw [show 187 = 31 + (150 + (5 + 1)) from rfl, coreRun_add (coreRun_fastForward hf c k),
    coreRun_add (coreRun_decryptRounds hf _), coreRun_add (coreRun_decryptRound hf _ (by decide)), decryptFn_eq_rounds,
    decryptRounds_succ _ _ 30]
  exact coreRun_final (s := decryptMove 1 ((s.decrypting _ 1).withSub 4)) hf (.inr rfl) rfl rfl

/-- Settles O33: the acceptance of DEC is the fast-forward's start over the sampled ports; the function ends with the
master key. -/
theorem decComputesDecrypt : Obligations.DecComputesDecrypt := fun s ⟨hp, hb, hf⟩ hl => by
  have hkey := decryptFn_snd hl s.dinBlk s.dinKey
  have hpair : decryptFn s.rom s.dinBlk s.dinKey = ((decryptFn s.rom s.dinBlk s.dinKey).1, s.dinKey) :=
    Prod.ext rfl hkey
  have hrun : coreRun 187 ((acceptance .dec s.clearStatus).forwarding s.dinBlk s.dinKey 1) =
      .next (((acceptance .dec s.clearStatus).decrypting (decryptFn s.rom s.dinBlk s.dinKey) 0).withSub 4).complete :=
    coreRun_decrypting (s := acceptance .dec s.clearStatus) hf s.dinBlk s.dinKey
  rw [hpair] at hrun
  refine ⟨hkey, _, exec_accepted rfl hb, ?_⟩
  rw [hp, hb]
  exact hrun

end Sys2Proof.Machine
end

section
/-! Proofs about what writes each register (10_state.md §3, §4): the micro-steps by the core's moves, the issues by the
acceptance actions, the other turns by the port they drive; from them O42, O43, O44 and O60. -/

namespace Sys2Proof.Machine

/-! ### What a move of the core writes -/

/-- A move of the core is a pass, the model fault alone (R37, R208), or a micro-op and a move of the sequencer that
writes neither CMDL (R27) nor a ROM (R29) nor the fault. -/
theorem CoreMove.cases_run {s t : State} (h : CoreMove s t) :
    t = s ∨ t = s.raiseModelFault ∨
      ∃ m : MicroOp, ∃ u, m.run s = some u ∧ t.cmdl = u.cmdl ∧ t.rom = u.rom ∧ t.mfault = u.mfault := by
  cases h with
  | wait => exact .inl rfl
  | unloaded => exact .inr (.inl rfl)
  | prim ops m u _ _ _ hrun =>
    refine .inr (.inr ⟨m, u, hrun, ?_⟩)
    unfold primMove; split_ifs <;> exact ⟨rfl, rfl, rfl⟩
  | encrypt r m u _ _ _ hrun =>
    refine .inr (.inr ⟨m, u, hrun, ?_⟩)
    unfold encryptMove; split_ifs <;> exact ⟨rfl, rfl, rfl⟩
  | forward r u _ _ hrun =>
    refine .inr (.inr ⟨.ksf r, u, hrun, ?_⟩)
    unfold fastForwardMove; split_ifs <;> exact ⟨rfl, rfl, rfl⟩
  | decrypt r m u _ _ _ hrun =>
    refine .inr (.inr ⟨m, u, hrun, ?_⟩)
    unfold decryptMove; split_ifs <;> exact ⟨rfl, rfl, rfl⟩
  | final u _ hrun => exact .inr (.inr ⟨.ark, u, hrun, rfl, rfl, rfl⟩)

theorem MicroOp.run_cmdl_rom {m : MicroOp} {s u : State} (h : m.run s = some u) : u.cmdl = s.cmdl ∧ u.rom = s.rom := by
  obtain ⟨-, -, ⟨b, rfl⟩⟩ | ⟨-, -, ⟨k, rfl⟩⟩ := m.run_some h <;> exact ⟨rfl, rfl⟩

theorem CoreMove.keeps_cmdl_rom {s t : State} (h : CoreMove s t) : t.cmdl = s.cmdl ∧ t.rom = s.rom := by
  obtain rfl | rfl | ⟨m, u, hrun, hcmdl, hrom, -⟩ := h.cases_run
  · exact ⟨rfl, rfl⟩
  · exact ⟨rfl, rfl⟩
  · obtain ⟨hcmdl', hrom'⟩ := MicroOp.run_cmdl_rom hrun
    exact ⟨hcmdl.trans hcmdl', hrom.trans hrom'⟩

theorem CoreMove.unloaded_or_keeps_mfault {s t : State} (h : CoreMove s t) :
    t = s.raiseModelFault ∨ t.mfault = s.mfault := by
  obtain rfl | rfl | ⟨m, u, hrun, -, -, hfault⟩ := h.cases_run
  · exact .inr rfl
  · exact .inl rfl
  · exact .inr (hfault.trans (MicroOp.run_mfault hrun))

/-- Only E_RND, D_FF and D_RND count rounds (R24). -/
theorem CoreMove.keeps_rc {s t : State} (h : CoreMove s t)
    (hp : ¬ (s.phase = .eRnd ∨ s.phase = .dFf ∨ s.phase = .dRnd)) : t.rc = s.rc := by
  cases h with
  | wait | unloaded => rfl
  | prim ops m u _ _ _ hrun =>
    obtain ⟨hrc, -⟩ := MicroOp.run_fields hrun
    unfold primMove; split_ifs <;> exact hrc
  | encrypt r m u hphase => exact absurd (.inl hphase) hp
  | forward r u hphase => exact absurd (.inr (.inl hphase)) hp
  | decrypt r m u hphase => exact absurd (.inr (.inr hphase)) hp
  | final u _ hrun =>
    obtain ⟨hrc, -⟩ := MicroOp.run_fields (m := .ark) hrun
    exact hrc

/-- TSEL changes only at the end of the fast-forward, to INV (R25, R162). -/
theorem CoreMove.tsel_cases {s t : State} (h : CoreMove s t) :
    t.tsel = s.tsel ∨ (s.phase = .dFf ∧ s.rc = Reg.loaded 31 ∧ t.tsel = .inv) := by
  cases h with
  | wait | unloaded => exact .inl rfl
  | prim ops m u _ _ _ hrun =>
    obtain ⟨-, htsel, -⟩ := MicroOp.run_fields hrun
    unfold primMove; split_ifs <;> exact .inl htsel
  | encrypt r m u _ _ _ hrun =>
    obtain ⟨-, htsel, -⟩ := MicroOp.run_fields hrun
    unfold encryptMove; split_ifs <;> exact .inl htsel
  | forward r u hp hround hrun =>
    obtain ⟨-, htsel, -⟩ := MicroOp.run_fields (m := .ksf r) hrun
    unfold fastForwardMove
    split_ifs with hmore
    · exact .inl htsel
    · have hlast : r = 31 := by bv_omega
      exact .inr ⟨hp, hlast ▸ (roundNumber_some hround).1, rfl⟩
  | decrypt r m u _ _ _ hrun =>
    obtain ⟨-, htsel, -⟩ := MicroOp.run_fields hrun
    unfold decryptMove; split_ifs <;> exact .inl htsel
  | final u _ hrun =>
    obtain ⟨-, htsel, -⟩ := MicroOp.run_fields (m := .ark) hrun
    exact .inl htsel

/-- The fast-forward of DEC steps KEY and leaves BLK (R22, R162). -/
theorem CoreMove.keeps_blk {s t : State} (h : CoreMove s t) (hp : s.phase = .idle ∨ s.phase = .dFf) :
    t.blk = s.blk := by
  cases h with
  | wait | unloaded => rfl
  | forward r u _ _ hrun =>
    rw [(fastForwardMove_data r u).1]
    obtain ⟨hw, -⟩ | ⟨-, -, ⟨k, rfl⟩⟩ := MicroOp.run_some (m := .ksf r) hrun
    · cases hw
    · rfl
  | prim _ _ _ hphase | encrypt _ _ _ hphase | decrypt _ _ _ hphase => simp [hphase] at hp
  | final _ hphase => obtain hphase | hphase := hphase <;> simp [hphase] at hp

/-- The final mix reads KEY and leaves it (R23). -/
theorem CoreMove.keeps_key {s t : State} (h : CoreMove s t)
    (hp : s.phase = .idle ∨ s.phase = .eFin ∨ s.phase = .dFin) : t.key = s.key := by
  cases h with
  | wait | unloaded => rfl
  | final u _ hrun =>
    obtain ⟨-, -, ⟨b, rfl⟩⟩ | ⟨hw, -⟩ := MicroOp.run_some (m := .ark) hrun
    · rfl
    · cases hw
  | prim _ _ _ hphase | encrypt _ _ _ hphase | forward _ _ hphase | decrypt _ _ _ hphase => simp [hphase] at hp

section
variable {s t : State} (h : coreStep s = .next t)
include h

theorem coreStep_cmdl_rom : t.cmdl = s.cmdl ∧ t.rom = s.rom := by
  obtain ⟨-, rfl⟩ | ⟨-, hmove⟩ := coreStep_next h
  · exact ⟨rfl, rfl⟩
  · exact hmove.keeps_cmdl_rom

theorem coreStep_frame_fields : t.err = s.err ∧ t.rst = s.rst ∧ t.cmd = s.cmd ∧ t.dinBlk = s.dinBlk ∧
    t.dinKey = s.dinKey ∧ t.schedule = s.schedule := by
  rw [coreStep_frame h]
  exact ⟨rfl, rfl, rfl, rfl, rfl, rfl⟩

theorem coreStep_rc (hp : ¬ (s.phase = .eRnd ∨ s.phase = .dFf ∨ s.phase = .dRnd)) : t.rc = s.rc := by
  obtain ⟨-, rfl⟩ | ⟨-, hmove⟩ := coreStep_next h
  · rfl
  · exact hmove.keeps_rc hp

theorem coreStep_tsel_cases : t.tsel = s.tsel ∨ (s.phase = .dFf ∧ s.rc = Reg.loaded 31 ∧ t.tsel = .inv) := by
  obtain ⟨-, rfl⟩ | ⟨-, hmove⟩ := coreStep_next h
  · exact .inl rfl
  · exact hmove.tsel_cases

theorem coreStep_blk (hp : s.phase = .idle ∨ s.phase = .dFf) : t.blk = s.blk := by
  obtain ⟨-, rfl⟩ | ⟨-, hmove⟩ := coreStep_next h
  · rfl
  · exact hmove.keeps_blk hp

theorem coreStep_key (hp : s.phase = .idle ∨ s.phase = .eFin ∨ s.phase = .dFin) : t.key = s.key := by
  obtain ⟨-, rfl⟩ | ⟨-, hmove⟩ := coreStep_next h
  · rfl
  · exact hmove.keeps_key hp

end

/-! ### A primitive's micro-step and RC -/

/-- The same state with another RC. -/
abbrev State.withRc (s : State) (x : Reg 5) : State := { s with rc := x }

theorem MicroOp.run_withRc (m : MicroOp) (s : State) (x : Reg 5) :
    m.run (s.withRc x) = (m.run s).map (·.withRc x) := by
  obtain ⟨⟨_, blk⟩, ⟨_, key⟩⟩ := s
  cases m <;> cases blk <;> cases key <;> rfl

theorem primMove_withRc (ops : List MicroOp) (s : State) (x : Reg 5) :
    primMove ops (s.withRc x) = (primMove ops s).withRc x := by
  unfold primMove
  split_ifs <;> rfl

/-- R24: a primitive command neither reads nor writes RC. -/
theorem coreStep_withRc {s : State} (hp : s.phase = .prim) (x : Reg 5) :
    coreStep (s.withRc x) = mapNext (·.withRc x) (coreStep s) := by
  have hlatched : (s.withRc x).latchedOps = s.latchedOps := rfl
  simp only [coreStep, hp, primStep, hlatched]
  cases s.mfault with
  | some f => rfl
  | none =>
    cases s.latchedOps with
    | none => rfl
    | some ops =>
      simp only [performAt]
      cases ops[s.sub.toNat]? with
      | none => rfl
      | some m =>
        simp only [perform, MicroOp.run_withRc]
        cases m.run s with
        | none => rfl
        | some u => exact congrArg Host.Outcome.next (primMove_withRc ops u x)

/-- Settles O42: the frame of a micro-step, CMDL and the ROMs by the core's moves, RC in PRIM by the step that does the
same whatever it holds, and the one move that raises the fault. -/
theorem microStepFrame : Obligations.MicroStepFrame := fun s t h => by
  obtain ⟨hcmdl, hrom⟩ := coreStep_cmdl_rom h
  obtain ⟨herr, hrst, hcmd, hdinBlk, hdinKey, hschedule⟩ := coreStep_frame_fields h
  refine ⟨⟨herr, hcmdl, hrst, hcmd, hdinBlk, hdinKey, hrom, hschedule⟩,
    fun hp => ⟨coreStep_rc h (by simp [hp]), ?tsel, fun x => ?rc⟩, fun hf ht => ?fault⟩
  case tsel => exact (coreStep_tsel_cases h).resolve_right fun ⟨hff, _⟩ => by simp [hp] at hff
  case rc => rw [coreStep_withRc hp x, h]; rfl
  case fault =>
    obtain ⟨hf', -⟩ | ⟨-, hmove⟩ := coreStep_next h
    · exact absurd hf hf'
    · obtain rfl | hkept := hmove.unloaded_or_keeps_mfault
      · rfl
      · exact absurd (hkept.trans hf) ht

/-! ### What an acceptance writes -/

/-- R22, R35: LDB, ENC and DEC sample din_blk. -/
theorem acceptance_blk_cases (i : Instr) (s : State) :
    (acceptance i s).blk = s.blk ∨
      ((acceptance i s).blk = Reg.loaded s.dinBlk ∧ (i = .ldb ∨ i = .enc ∨ i = .dec)) := by
  cases i with
  | ldb | enc | dec => exact .inr ⟨rfl, by simp⟩
  | nop | ldk | ark | sl | pl | ksf | ksi | rnde | rndd => exact .inl rfl

/-- R23, R35: LDK, ENC and DEC sample din_key. -/
theorem acceptance_key_cases (i : Instr) (s : State) :
    (acceptance i s).key = s.key ∨
      ((acceptance i s).key = Reg.loaded s.dinKey ∧ (i = .ldk ∨ i = .enc ∨ i = .dec)) := by
  cases i with
  | ldk | enc | dec => exact .inr ⟨rfl, by simp⟩
  | nop | ldb | ark | sl | pl | ksf | ksi | rnde | rndd => exact .inl rfl

/-- R24, R35: ENC and DEC start the round count. -/
theorem acceptance_rc_cases (i : Instr) (s : State) : (acceptance i s).rc = s.rc ∨ i = .enc ∨ i = .dec := by
  cases i with
  | enc | dec => exact .inr (by simp)
  | nop | ldb | ldk | ark | sl | pl | ksf | ksi | rnde | rndd => exact .inl rfl

/-- R25, R35: a command that has a table sets TSEL to it. -/
theorem acceptance_tsel_cases (i : Instr) (s : State) :
    (acceptance i s).tsel = s.tsel ∨ tableSetBy i = some (acceptance i s).tsel := by
  cases i with
  | sl | rnde | rndd | enc | dec => exact .inr rfl
  | nop | ldb | ldk | ark | pl | ksf | ksi => exact .inl rfl

/-- R27, R35: a primitive command is latched. -/
theorem acceptance_cmdl_cases (i : Instr) (s : State) :
    (acceptance i s).cmdl = s.cmdl ∨ ((acceptance i s).cmdl = Reg.loaded (encode i) ∧ (primOps i).isSome) := by
  cases i with
  | ark | sl | pl | ksf | ksi | rnde | rndd => exact .inr ⟨rfl, rfl⟩
  | nop | ldb | ldk | enc | dec => exact .inl rfl

theorem acceptance_rom (i : Instr) (s : State) : (acceptance i s).rom = s.rom := by
  cases i <;> rfl

/-! ### The registers, turn by turn -/

/-- The registers that only the core and an acceptance write, with the ROMs. -/
def State.registers (s : State) : Reg 64 × Reg 80 × Reg 5 × Table × Reg 16 × Tables :=
  (s.blk, s.key, s.rc, s.tsel, s.cmdl, s.rom)

/-- A turn that is no reset is a micro-step, or the acceptance of the command on cmd, or it leaves every register. -/
theorem turnStep_cases {turn : Turn} {s t : State} (h : turnStep turn s = .next t) (hreset : turn.resets = false) :
    (turn = .core ∧ coreStep s = .next t) ∨
    (turn = .issue ∧ s.busy = false ∧ ∃ i, decode s.cmd = .ok i ∧ t = acceptance i s.clearStatus) ∨
    t.registers = s.registers := by
  cases turn with
  | core => exact .inl ⟨rfl, h⟩
  | issue =>
    refine .inr ?_
    cases hr : s.rst with
    | true =>
      cases (issueEvent_held hr).symm.trans h
      exact .inr rfl
    | false =>
      obtain ⟨-, rfl⟩ | ⟨-, rfl⟩ | ⟨hb, i, hi, rfl⟩ := issueEvent_cases_low h hr
      · exact .inr rfl
      · exact .inr rfl
      · exact .inl ⟨rfl, hb, i, hi, rfl⟩
  | assertRst | assertRstAndIssue => cases hreset
  | driveCmd | driveBlk | driveKey | releaseRst | readOutputs => cases h; exact .inr (.inr rfl)

/-- The same for a step (R20). -/
theorem step_cases {s t : State} (h : step s = .next t) (hreset : s.turn.resets = false) :
    (s.turn = .core ∧ coreStep { s with schedule := s.schedule.tail } = .next t) ∨
    (s.turn = .issue ∧ s.busy = false ∧ ∃ i, decode s.cmd = .ok i ∧
      t = acceptance i ({ s with schedule := s.schedule.tail } : State).clearStatus) ∨
    t.registers = s.registers :=
  turnStep_cases (step_next h).2 hreset

/-- Settles O43: a micro-step writes BLK or KEY only in its phases, an acceptance only with the sampled port. -/
theorem onlyNamedEventsWriteBlkAndKey : Obligations.OnlyNamedEventsWriteBlkAndKey := fun s t h hreset => by
  obtain ⟨hturn, hstep⟩ | ⟨hturn, hb, i, hi, rfl⟩ | hkept := step_cases h hreset
  · refine ⟨fun hne => .inl ⟨hturn, ?_⟩, fun hne => .inl ⟨hturn, ?_⟩⟩
    · simpa only [not_or] using mt (coreStep_blk hstep) hne
    · simpa only [not_or] using mt (coreStep_key hstep) hne
  · refine ⟨fun hne => .inr ⟨hturn, hb, ?_⟩, fun hne => .inr ⟨hturn, hb, ?_⟩⟩
    · obtain ⟨hblk, hcmd⟩ := (acceptance_blk_cases i _).resolve_left hne
      exact ⟨hblk, by simpa [hi] using hcmd⟩
    · obtain ⟨hkey, hcmd⟩ := (acceptance_key_cases i _).resolve_left hne
      exact ⟨hkey, by simpa [hi] using hcmd⟩
  · obtain ⟨hblk, hkey, -⟩ := by simpa only [State.registers, Prod.mk.injEq] using hkept
    exact ⟨fun hne => absurd hblk hne, fun hne => absurd hkey hne⟩

/-- Settles O44: a micro-step writes RC only where rounds are counted and TSEL only at the turn of DEC; an acceptance
writes each as its command says; CMDL gets the word that was decoded. -/
theorem onlyNamedEventsWriteHiddenRegisters : Obligations.OnlyNamedEventsWriteHiddenRegisters :=
  fun s t h hreset => by
    obtain ⟨hturn, hstep⟩ | ⟨hturn, hb, i, hi, rfl⟩ | hkept := step_cases h hreset
    · refine ⟨fun hne => .inl ⟨hturn, ?_⟩, fun hne => .inl ⟨hturn, ?_⟩, fun hne => ?_⟩
      · by_contra hp
        exact hne (coreStep_rc hstep hp :)
      · exact (coreStep_tsel_cases hstep).resolve_left hne
      · exact absurd (coreStep_cmdl_rom hstep).1 hne
    · refine ⟨fun hne => .inr ⟨hturn, hb, ?_⟩, fun hne => .inr ⟨hturn, hb, i, hi, ?_⟩, fun hne => ⟨hturn, hb, ?_⟩⟩
      · simpa [hi] using (acceptance_rc_cases i _).resolve_left hne
      · exact (acceptance_tsel_cases i _).resolve_left hne
      · obtain ⟨hcmdl, hprim⟩ := (acceptance_cmdl_cases i _).resolve_left hne
        exact ⟨hcmdl.trans (by rw [encode_of_decode hi]; rfl), i, hi, hprim⟩
    · obtain ⟨-, -, hrc, htsel, hcmdl, -⟩ := by simpa only [State.registers, Prod.mk.injEq] using hkept
      exact ⟨fun hne => absurd hrc hne, fun hne => absurd htsel hne, fun hne => absurd hcmdl hne⟩

/-! ### The tables -/

/-- R230, R232: a step whose turn asserts rst is the reset event. -/
theorem step_of_resets {s t : State} (h : step s = .next t) (hreset : s.turn.resets = true) :
    t = ({ s with schedule := s.schedule.tail } : State).resetEvent := by
  have hturn : s.turn = .assertRst ∨ s.turn = .assertRstAndIssue := by
    cases hs : s.turn with
    | assertRst | assertRstAndIssue => simp
    | core | driveCmd | driveBlk | driveKey | issue | releaseRst | readOutputs => rw [hs] at hreset; cases hreset
  exact (Host.Outcome.next.inj ((turnStep_resets hturn _).symm.trans (step_next h).2)).symm

theorem step_rom {s t : State} (h : step s = .next t) : t.rom = s.rom := by
  cases hreset : s.turn.resets with
  | true => rw [step_of_resets h hreset]; rfl
  | false =>
    obtain ⟨-, hstep⟩ | ⟨-, -, i, -, rfl⟩ | hkept := step_cases h hreset
    · exact (coreStep_cmdl_rom hstep).2
    · exact acceptance_rom i _
    · exact congrArg (·.2.2.2.2.2) hkept

section
variable {r : Refusal}

theorem perform_ne_refused (m : MicroOp) (s : State) (move : State → State) : perform m s move ≠ .refused r := by
  obtain ⟨t, ht⟩ := perform_answers m s move
  rw [ht]
  nofun

theorem performAt_ne_refused (ops : List MicroOp) (s : State) (move : State → State) :
    performAt ops s move ≠ .refused r := by
  unfold performAt
  split
  · exact perform_ne_refused _ _ _
  · nofun

/-- The core refuses nothing: a sequencer that has no step stops with a fault (log 11). -/
theorem coreStep_ne_refused (s : State) : coreStep s ≠ .refused r := by
  unfold coreStep
  split
  · nofun
  · split
    · nofun
    · unfold primStep; split
      · exact performAt_ne_refused _ _ _
      · nofun
    · unfold encryptStep; split
      · exact performAt_ne_refused _ _ _
      · nofun
    · exact perform_ne_refused _ _ _
    · unfold fastForwardStep; split
      · exact perform_ne_refused _ _ _
      · nofun
    · unfold decryptStep; split
      · exact performAt_ne_refused _ _ _
      · nofun
    · exact perform_ne_refused _ _ _

theorem turnStep_ne_refused (turn : Turn) (s : State) : turnStep turn s ≠ .refused r := by
  cases turn with
  | core => exact coreStep_ne_refused s
  | issue =>
    obtain ⟨t, ht⟩ := issueEvent_answers s
    rw [turnStep, ht]
    nofun
  | driveCmd | driveBlk | driveKey | assertRst | assertRstAndIssue | releaseRst | readOutputs => nofun

end

/-- Settles O60: the tables are tested before any turn, no turn refuses, and none writes a ROM. -/
theorem tablesAreCheckedAndConstant : Obligations.TablesAreCheckedAndConstant := by
  refine ⟨fun s r => ?_, fun s t => step_rom⟩
  cases hl : lawfulTables s.rom with
  | true =>
    rw [step_turn hl]
    simpa using turnStep_ne_refused s.turn _
  | false =>
    rw [step_unlawful hl]
    simp [eq_comm]

end Sys2Proof.Machine
end

section
/-! Proofs about turns, status and outputs (10_state.md R20, R28, R34, R42; 70_reset_and_hazards.md §1): what the step
at each kind of turn is, and the reset values; from them O8, O9, O10, O13, O46, O47, O48, O49, O52 and O54. -/

namespace Sys2Proof.Machine

/-! ### Issues -/

/-- With rst low the issue of a legal word is the command's meaning (R34). -/
theorem issueEvent_decoded {s : State} {i : Instr} (hr : s.rst = false) (hi : decode s.cmd = .ok i) :
    issueEvent s = exec i s := by
  simp [issueEvent, hr, State.sampleCmd, hi]

/-- Settles O9: the step is the issue event past the turn, which decodes the word on cmd. -/
theorem stepRunsDecodedCommand : Obligations.StepRunsDecodedCommand := fun _ _ _ hl hr hs hi =>
  (step_issue hl hs).trans (issueEvent_decoded hr hi)

/-- The word of the host's numbering is the word itself (R7, R70). -/
theorem decodeTableWord_toNat {w : CmdWord} {i : Instr} (hi : decode w = .ok i) :
    decodeTableWord 16 w.toNat = some i := by
  simp [decodeTableWord, w.isLt, hi]

theorem withFetchWord_toNat (s : State) (w : CmdWord) : s.withFetchWord 16 w.toNat = presentCommand s w := by
  rw [State.withFetchWord, Nat.mod_eq_of_lt w.isLt, BitVec.ofNat_toNat, BitVec.setWidth_eq]

/-- Settles O10: the host presents the word with rst low and its issue at the head of the schedule. -/
theorem placedWordRunsNext : Obligations.PlacedWordRunsNext := fun s w i hl hi => by
  refine ⟨decodeTableWord_toNat hi, ?_⟩
  rw [withFetchWord_toNat]
  exact stepRunsDecodedCommand (presentCommand s w) i s.schedule hl rfl rfl hi

/-- Settles O13: the meaning of a command that is not well formed is the rejection of an illegal word. -/
theorem zeroRoundOperandIsIllegal : Obligations.ZeroRoundOperandIsIllegal := fun _ _ hb hw =>
  (exec_not_wf hw _).trans (issueIllegal_idle hb)

/-! ### Outputs and status -/

theorem doutBlk_of_present {s : State} (h : s.blk.present = true) : s.doutBlk = s.blk.value := if_pos h

theorem doutKey_of_present {s : State} (h : s.key.present = true) : s.doutKey = s.key.value := if_pos h

/-- Settles O49: the outputs of a register that holds a value. -/
theorem outputsEqualLoadedRegisters : Obligations.OutputsEqualLoadedRegisters := fun _ =>
  ⟨doutBlk_of_present, doutKey_of_present⟩

/-- R28: status is err above done above busy. -/
theorem status_fields (s : State) :
    s.status.extractLsb' 0 1 = BitVec.ofBool s.busy ∧ s.status.extractLsb' 1 1 = BitVec.ofBool s.done ∧
    s.status.extractLsb' 2 2 = s.err.code := by
  unfold State.status
  cases s.busy <;> cases s.done <;> cases s.err <;> decide

/-- Settles O48: the three fields, the codes of R201, and busy by the invariant. -/
theorem statusWordFields : Obligations.StatusWordFields := fun s => by
  obtain ⟨hbusy, hdone, herr⟩ := status_fields s
  refine ⟨hbusy, hdone, ?_, ?_, fun h => ?_⟩
  · rw [herr]; cases s.err <;> rfl
  · rw [herr]; cases s.err <;> decide
  · rw [hbusy, ← h.busy_iff]; cases s.busy <;> decide

theorem status_eq_two {s : State} (hb : s.busy = false) (hd : s.done = true) (he : s.err = .ok) :
    s.status = 0b0010 := by
  rw [State.status, hb, hd, he]
  decide

/-- Settles O8: each acceptance is whole at once, and the outputs show the port that it sampled. -/
theorem nopAndLoadsFinishAtOnce : Obligations.NopAndLoadsFinishAtOnce := fun _ hb =>
  ⟨⟨_, exec_accepted rfl hb, status_eq_two hb rfl rfl, rfl, rfl⟩,
    ⟨_, exec_accepted rfl hb, status_eq_two hb rfl rfl, rfl, rfl, fun _ => rfl⟩,
    ⟨_, exec_accepted rfl hb, status_eq_two hb rfl rfl, rfl, rfl, rfl, fun _ => rfl⟩⟩

/-! ### Turns -/

/-- Settles O46: an empty schedule gives the core the turn; an idle or a faulted core passes it. -/
theorem coreTurnIsAMicroStep : Obligations.CoreTurnIsAMicroStep := fun s hl => by
  refine ⟨fun hs => ?_, fun rest hs => step_scheduled hl hs, fun ⟨hp, _, _⟩ => coreStep_idle hp, coreStep_faulted⟩
  simp [step, takeTurn, hl, hs]

/-- Settles O47: each of these turns is its own write, on the state past the turn. -/
theorem hostTurnsLeaveTheCoreAlone : Obligations.HostTurnsLeaveTheCoreAlone := fun _ _ hl =>
  ⟨fun _ hs => step_scheduled hl hs, fun _ hs => step_scheduled hl hs, fun _ hs => step_scheduled hl hs,
    fun hs => step_scheduled hl hs, fun hs => step_scheduled hl hs⟩

/-! ### Reset -/

/-- Settles O54: the fields that the reset event takes from the state before it. -/
theorem resetKeepsTheInputPorts : Obligations.ResetKeepsTheInputPorts := fun s t hreset h => by
  rw [step_of_resets h hreset]
  exact ⟨rfl, rfl, rfl, rfl⟩

/-- Settles O52: the fields of the reset state, and the laws of the default tables at each nibble. -/
theorem resetValues : Obligations.ResetValues := by
  have hlawful : lawfulTables defaultTables = true := by decide
  exact ⟨rfl, rfl, rfl, rfl, rfl, rfl, rfl, rfl, rfl, rfl, rfl, rfl, hlawful⟩

end Sys2Proof.Machine
end

section
/-! Proofs about the layers of the datapath as functions (41_substitution.md, 42_permutation.md, 43_key_schedule.md) and
about the key's byte order (20_memory.md §2): O18, O20, O22, O23, O27 and O51. -/

namespace Sys2Proof.Machine

/-! ### Substitution -/

/-- The high and the low nibble of a byte put together from them. -/
theorem extractLsb'_append_nibbles (x y : Nibble) :
    (x ++ y : BitVec 8).extractLsb' 4 4 = x ∧ (x ++ y : BitVec 8).extractLsb' 0 4 = y := by
  revert x y; decide

/-- Byte j of a block is lanes 15 - 2j and 14 - 2j (R51, R106). -/
theorem blockByte_eq_lanes (b : Block) (j : Fin 8) :
    blockByte b j = lane b (15 - 2 * j.val) ++ lane b (14 - 2 * j.val) := by
  have hj := j.isLt
  apply BitVec.eq_of_getLsbD_eq
  intro n hn
  rw [blockByte, BitVec.getLsbD_append, BitVec.getLsbD_extractLsb', decide_eq_true hn, Bool.true_and]
  split_ifs with hlow
  · have hbit : 4 * (14 - 2 * j.val) + n = 56 - 8 * j.val + n := by omega
    rw [lane, BitVec.getLsbD_extractLsb', decide_eq_true hlow, Bool.true_and, hbit]
  · have hnibble : n - 4 < 4 := by omega
    have hbit : 4 * (15 - 2 * j.val) + (n - 4) = 56 - 8 * j.val + n := by omega
    rw [lane, BitVec.getLsbD_extractLsb', decide_eq_true hnibble, Bool.true_and, hbit]

/-- Settles O18: `apply` on the byte of two lanes is the two lanes substituted, which is what the layer puts there. -/
theorem layerIsByteWiseApply : Obligations.LayerIsByteWiseApply := by
  refine ⟨fun rom b j => ?_, fun rom b => extractLsb'_append_nibbles _ _⟩
  obtain ⟨hhigh, hlow⟩ := extractLsb'_append_nibbles (lane b (15 - 2 * j.val)) (lane b (14 - 2 * j.val))
  rw [blockByte_eq_lanes, blockByte_eq_lanes, applyByte, hhigh, hlow, lane_sLayer rom b _ (by omega),
    lane_sLayer rom b _ (by omega)]

/-- Settles O20: a layer is undone lane by lane. -/
theorem substitutionLayersAreInverse : Obligations.SubstitutionLayersAreInverse := fun _ b h =>
  ⟨sLayer_undo (fun v => (lookup_inverse h v).1) b, sLayer_undo (fun v => (lookup_inverse h v).2) b⟩

/-! ### Permutation -/

theorem permIndex_permIndex (p : Nat) : permIndex (permIndex p) = 4 * (p % 16) + p / 16 := by
  unfold permIndex; omega

/-- Settles O22: P by its arithmetic; the fixed points are the multiples of 21. -/
theorem wiringIsABijection : Obligations.WiringIsABijection := by
  refine ⟨fun p => permIndex_lt p.isLt, fun p q h => Fin.ext (permIndex_inj p.isLt q.isLt h), fun q => ?_, fun p => ?_⟩
  · obtain ⟨p, hp, hq⟩ := exists_permIndex_eq q.isLt
    exact ⟨⟨p, hp⟩, hq⟩
  · have hp := p.isLt
    unfold permIndex
    omega

/-- A block whose bits are all alike is kept by the permutation layer (R113). -/
theorem pLayer_of_constant {b : Block} {x : Bool} (h : ∀ p, p < 64 → b.getLsbD p = x) : pLayer b = b := by
  apply BitVec.eq_of_getLsbD_eq
  intro q hq
  obtain ⟨p, hp, rfl⟩ := exists_permIndex_eq hq
  rw [getLsbD_pLayer b p hp, h p hp, h _ hq]

/-- Settles O23: P twice and thrice by its arithmetic, the layer bit by bit. -/
theorem permutationHasOrderThree : Obligations.PermutationHasOrderThree :=
  ⟨fun _ hp => ⟨permIndex_permIndex _, permIndex_permIndex_permIndex hp⟩, pLayer_pLayer_pLayer,
    pLayer_of_constant (x := false) fun _ _ => BitVec.getLsbD_zero,
    pLayer_of_constant (x := true) fun _ hp => BitVec.getLsbD_allOnes.trans (decide_eq_true hp)⟩

/-! ### The key schedule -/

/-- Settles O27: the steps undo each other part by part, for R = 0 as well. -/
theorem scheduleStepsAreInverse : Obligations.ScheduleStepsAreInverse := fun _ r k h _ =>
  ⟨ksInverse_ksForward h r k, ksForward_ksInverse h r k⟩

/-! ### The byte order of the key -/

/-- Byte j of a key is the byte at place `9 - j` from the least significant end (R52). -/
theorem keyByte_eq (k : Key) (j : Fin 10) : keyByte k j = k.extractLsb' (8 * (9 - j.val)) 8 := by
  rw [keyByte, Nat.mul_sub]

/-- A field of a field is a field. -/
theorem extractLsb'_extractLsb' {w : Nat} (v : BitVec w) {start len start' len' : Nat} (h : start' + len' ≤ len) :
    (v.extractLsb' start len).extractLsb' start' len' = v.extractLsb' (start + start') len' := by
  apply BitVec.eq_of_getLsbD_eq
  intro n hn
  have hlt : start' + n < len := by omega
  simp [hn, hlt, Nat.add_assoc]

/-- Settles O51: the byte at place `9 - j` is byte j, as for the block; the round key is bits 79 to 16. -/
theorem keyByteZeroIsMostSignificant : Obligations.KeyByteZeroIsMostSignificant := by
  unfold Obligations.KeyByteZeroIsMostSignificant
  refine ⟨fun k n hn => ?bit, fun _ _ => rfl, fun k => ?sum, fun bytes j => ?buffer, fun k j => ?roundKey,
    fun k => ⟨rfl, rfl, ?nibble⟩⟩
  case bit =>
    have hplace : 9 - (9 - n / 8) = n / 8 := by omega
    rw [keyByte_eq, hplace, getLsbD_byte]
  case sum =>
    simp only [keyByte_eq]
    exact toNat_eq_sum_bytes (n := 10) k
  case buffer =>
    rw [keyByte_eq]
    exact extractLsb'_bigEndian bytes j
  case roundKey =>
    have hplace : 16 + (56 - 8 * j.val) = 72 - 8 * j.val := by omega
    rw [blockByte, roundKey, extractLsb'_extractLsb' k (by omega), hplace]
    rfl
  case nibble => exact extractLsb'_extractLsb' k (by decide)

end Sys2Proof.Machine
end

section
/-! Proofs about a command's run among host turns (10_state.md R20, R43; 44_encrypt.md R144, 45_decrypt.md R164): a turn
of the host without reset changes nothing that a micro-step reads, so the core's turns alone are the command's run; from
that O36 and O37. -/

namespace Sys2Proof.Machine

theorem coreRun_one_iff {s t : State} : coreRun 1 s = .next t ↔ coreStep s = .next t := by
  refine ⟨fun h => ?_, coreRun_one⟩
  cases hs : coreStep s with
  | next v => rw [← h]; exact (coreRun_one hs).symm
  | fault f => simp [coreRun, hs] at h
  | refused r => simp [coreRun, hs] at h

/-- The micro-steps that a turn takes. -/
def Turn.microSteps (x : Turn) : Nat := if x = .core then 1 else 0

/-- A turn while a command runs and rst is low: the core is as after the turn's micro-steps, up to the frame of a
micro-step; the turns to come stay, and err becomes BUSY at an issue (R203). -/
theorem turnStep_running {x : Turn} {s t : State} (hreset : x.resets = false) (hr : s.rst = false) (hb : s.busy = true)
    (ht : coreRun x.microSteps s = .next t) :
    ∃ u, turnStep x s = .next u ∧ u = t.withFrameOf u ∧ u.rst = false ∧ u.schedule = s.schedule ∧
      u.err = if x = .issue then .busy else s.err := by
  cases x with
  | core =>
    have hstep : coreStep s = .next t := coreRun_one_iff.1 ht
    obtain ⟨herr, hrst, -, -, -, hschedule⟩ := coreStep_frame_fields hstep
    exact ⟨t, hstep, rfl, hrst.trans hr, hschedule, herr⟩
  | issue =>
    cases ht
    exact ⟨_, issueEvent_busy hr hb, rfl, hr, rfl, rfl⟩
  | driveCmd | driveBlk | driveKey | readOutputs => cases ht; exact ⟨_, rfl, rfl, hr, rfl, rfl⟩
  | releaseRst => cases ht; exact ⟨_, rfl, rfl, rfl, rfl, rfl⟩
  | assertRst | assertRstAndIssue => cases hreset

theorem coreRun_rom {n : Nat} {s t : State} (h : coreRun n s = .next t) : t.rom = s.rom := by
  induction n generalizing s with
  | zero => cases h; rfl
  | succ n ih =>
    cases hs : coreStep s with
    | next u => rw [coreRun_succ hs] at h; exact (ih h).trans (coreStep_cmdl_rom hs).2
    | fault f => simp [coreRun, hs] at h
    | refused r => simp [coreRun, hs] at h

theorem coreRun_frame {n : Nat} {s t : State} (h : coreRun n s = .next t) (o : State) :
    coreRun n (s.withFrameOf o) = .next (t.withFrameOf o) := by
  rw [coreRun_withFrameOf, h]
  rfl

theorem run_add {s t : State} {m : Nat} (h : run m s = .next t) (n : Nat) : run (m + n) s = run n t := by
  induction m generalizing s with
  | zero => cases h; rw [Nat.zero_add]
  | succ m ih =>
    rw [Nat.succ_add]
    cases hs : step s with
    | next u => rw [run_succ m hs] at h; exact (run_succ (m + n) hs).trans (ih h)
    | fault f => rw [run_fault m hs] at h; cases h
    | refused r => rw [run_refused m hs] at h; cases h

/-- A list of turns without reset, while the command runs: the core is as after the list's core turns alone, up to the
frame of a micro-step. -/
theorem run_running {l rest : List Turn} {s v : State} (hl : lawfulTables s.rom = true) (hs : s.schedule = l ++ rest)
    (hreset : ∀ x ∈ l, x.resets = false) (hr : s.rst = false)
    (hbusy : ∀ k, k ≤ l.count .core → ∃ w, coreRun k s = .next w ∧ w.busy = true)
    (hv : coreRun (l.count .core) s = .next v) :
    ∃ u, run l.length s = .next u ∧ u = v.withFrameOf u ∧ u.schedule = rest ∧
      u.err = if .issue ∈ l then .busy else s.err := by
  induction l generalizing s v with
  | nil =>
    cases hv
    exact ⟨s, rfl, rfl, hs, by simp⟩
  | cons x l ih =>
    have hcount : (x :: l).count .core = x.microSteps + l.count .core := by
      rw [List.count_cons, Nat.add_comm]
      simp [Turn.microSteps]
    rw [hcount] at hbusy hv
    obtain ⟨t, ht, -⟩ := hbusy x.microSteps (Nat.le_add_right _ _)
    have hb : s.busy = true := by
      obtain ⟨w, hw, hwb⟩ := hbusy 0 (Nat.zero_le _)
      cases hw
      exact hwb
    obtain ⟨u, hu, hframe, hur, hus, huerr⟩ := turnStep_running (s := { s with schedule := l ++ rest })
      (hreset x List.mem_cons_self) hr hb (coreRun_frame ht { s with schedule := l ++ rest })
    have hstep : step s = .next u := (step_scheduled hl hs).trans hu
    have hfrom {k : Nat} {w : State} (hw : coreRun (x.microSteps + k) s = .next w) :
        coreRun k u = .next (w.withFrameOf u) :=
      (congrArg (coreRun k) hframe).trans (coreRun_frame ((coreRun_add ht k).symm.trans hw) u)
    have hlu : lawfulTables u.rom = true := by rw [hframe]; exact (coreRun_rom ht).symm ▸ hl
    have hbusy' : ∀ k, k ≤ l.count .core → ∃ w, coreRun k u = .next w ∧ w.busy = true := fun k hk => by
      obtain ⟨w, hw, hwb⟩ := hbusy (x.microSteps + k) (by omega)
      exact ⟨_, hfrom hw, hwb⟩
    obtain ⟨u', hu', hframe', hus', huerr'⟩ :=
      ih hlu hus (fun y hy => hreset y (List.mem_cons_of_mem x hy)) hur hbusy' (hfrom hv)
    refine ⟨u', (run_succ l.length hstep).trans hu', hframe', hus', huerr'.trans ?_⟩
    rw [huerr]
    by_cases hx : x = .issue
    · simp [hx]
    · simp [hx, Ne.symm hx]

theorem acceptance_keeps_rst (i : Instr) (s : State) : (acceptance i s).rst = s.rst := by
  cases i <;> rfl

/-- The same state with other turns to come. -/
abbrev State.withTurns (s : State) (l : List Turn) : State := { s with schedule := l }

theorem acceptance_withTurns (i : Instr) (s : State) (l : List Turn) :
    acceptance i (s.withTurns l) = (acceptance i s).withTurns l := by
  cases i <;> rfl

/-- The issue of a legal word on a ready core, as a step (R34, R35). -/
theorem step_accepts {i : Instr} {s : State} {rest : List Turn} (hl : lawfulTables s.rom = true) (hb : s.busy = false)
    (hr : s.rst = false) (hi : decode s.cmd = .ok i) (hs : s.schedule = .issue :: rest) :
    step s = .next ((acceptance i s.clearStatus).withTurns rest) := by
  have hexec : exec i (s.withTurns rest) = .next (acceptance i (s.clearStatus.withTurns rest)) :=
    exec_accepted (wf_of_decode hi) hb
  rw [step_issue hl hs, issueEvent_decoded (s := s.withTurns rest) hr hi, hexec, acceptance_withTurns]

/-- A command issued on a ready core and run through any turns without reset that hold its micro-steps, the last one at
the end: the end state of its run without the host, up to the frame of a micro-step, with err = BUSY if a command was
issued meanwhile. -/
theorem run_command {i : Instr} {s fin : State} {l : List Turn} (hl : lawfulTables s.rom = true) (hready : s.Ready)
    (hr : s.rst = false) (hi : decode s.cmd = .ok i) (hs : s.schedule = .issue :: (l ++ [.core]))
    (hreset : ∀ x ∈ l, x.resets = false) (hcount : microSteps i = l.count .core + 1)
    (hblk : (acceptance i s.clearStatus).blk.present = true) (hkey : (acceptance i s.clearStatus).key.present = true)
    (hfin : coreRun (microSteps i) (acceptance i s.clearStatus) = .next fin) :
    ∃ u, run (l.length + 2) s = .next u ∧ u = fin.withFrameOf u ∧ u.schedule = [] ∧
      u.err = if .issue ∈ l then .busy else .ok := by
  generalize hstart : acceptance i s.clearStatus = start at hblk hkey hfin
  have hstep : step s = .next (start.withTurns (l ++ [.core])) := hstart ▸ step_accepts hl hready.2.1 hr hi hs
  have hlstart : lawfulTables start.rom = true := by rw [← hstart, acceptance_rom]; exact hl
  have hrstart : start.rst = false := by rw [← hstart, acceptance_keeps_rst]; exact hr
  have herrstart : start.err = .ok := by rw [← hstart, acceptance_err]; rfl
  have hends : start.EndsAfter (microSteps i) := by
    subst hstart
    exact acceptance_endsAfter (wf_of_decode hi) hready hblk hkey
  rw [hcount] at hends hfin
  obtain ⟨-, hbusy⟩ := hends
  obtain ⟨v, hv, -⟩ := hbusy (l.count .core) (Nat.lt_succ_self _)
  have hlast : coreStep v = .next fin := coreRun_one_iff.1 ((coreRun_add hv 1).symm.trans hfin)
  obtain ⟨u, hu, hframe, hus, huerr⟩ := run_running (s := start.withTurns (l ++ [.core])) hlstart rfl hreset
    hrstart (fun k hk => by
      obtain ⟨w, hw, hwb, -⟩ := hbusy k (Nat.lt_succ_of_le hk)
      exact ⟨_, (coreRun_frame hw (start.withTurns (l ++ [.core])) :), hwb⟩)
    (coreRun_frame hv (start.withTurns (l ++ [.core])))
  have hlu : lawfulTables u.rom = true := by rw [hframe]; exact (coreRun_rom hv).symm ▸ hlstart
  have hlu' : u.withTurns [] = v.withFrameOf (u.withTurns []) := congrArg (·.withTurns []) hframe
  have hend : step u = .next (fin.withFrameOf (u.withTurns [])) :=
    calc step u = coreStep (u.withTurns []) := step_scheduled hlu hus
      _ = coreStep (v.withFrameOf (u.withTurns [])) := congrArg coreStep hlu'
      _ = .next (fin.withFrameOf (u.withTurns [])) := by rw [coreStep_withFrameOf, hlast]; rfl
  refine ⟨fin.withFrameOf (u.withTurns []), ?_, rfl, rfl, huerr.trans (by rw [herrstart])⟩
  rw [run_succ _ hstep, run_add hu 1, run_succ 0 hend]
  rfl

theorem fields_of_eq_withFrameOf {u v : State} (h : u = v.withFrameOf u) :
    u.blk = v.blk ∧ u.key = v.key ∧ u.rc = v.rc ∧ u.tsel = v.tsel ∧ u.phase = v.phase ∧ u.busy = v.busy ∧
    u.done = v.done := by
  rw [h]
  exact ⟨rfl, rfl, rfl, rfl, rfl, rfl, rfl⟩

/-- Settles O36: the run of ENC among the turns ends as the run of `encComputesEncrypt`, with the key of R125. -/
theorem encResultWhateverTheHostDoes : Obligations.EncResultWhateverTheHostDoes :=
  fun s l hl hready hr hcmd hs hreset hcount => by
    have hi : decode s.cmd = .ok .enc := by rw [hcmd]; rfl
    obtain ⟨t, ht, hrun⟩ := encComputesEncrypt s hready
    cases (exec_accepted rfl hready.2.1).symm.trans ht
    obtain ⟨u, hu, hframe, hus, huerr⟩ := run_command hl hready hr hi hs hreset (by rw [hcount]; rfl) rfl rfl hrun
    obtain ⟨hblk, hkey, hrc, htsel, hp, hb, hd⟩ := fields_of_eq_withFrameOf hframe
    have hlast : (encryptFn s.rom s.dinBlk s.dinKey).2 = keyState s.rom s.dinKey 31 :=
      (encryptUsesTheKeySequence s.rom s.dinBlk s.dinKey).1
    exact ⟨u, hu, hblk, hkey.trans (congrArg Reg.loaded hlast), hrc, htsel, hp.trans hready.1, hb.trans hready.2.1, hd,
      huerr, hus⟩

/-- Settles O37: the same for DEC, whose run ends with the master key. -/
theorem decResultWhateverTheHostDoes : Obligations.DecResultWhateverTheHostDoes :=
  fun s l hl hready hr hcmd hs hreset hcount => by
    have hi : decode s.cmd = .ok .dec := by rw [hcmd]; rfl
    obtain ⟨-, t, ht, hrun⟩ := decComputesDecrypt s hready hl
    cases (exec_accepted rfl hready.2.1).symm.trans ht
    obtain ⟨u, hu, hframe, hus, huerr⟩ := run_command hl hready hr hi hs hreset (by rw [hcount]; rfl) rfl rfl hrun
    obtain ⟨hblk, hkey, hrc, htsel, hp, hb, hd⟩ := fields_of_eq_withFrameOf hframe
    exact ⟨u, hu, hblk, hkey, hrc, htsel, hp.trans hready.1, hb.trans hready.2.1, hd, huerr, hus⟩

end Sys2Proof.Machine
end
